-- ==== Sys2Proof/Word.lean ====
section
/-!
DEFINITION. The word types of the block: a byte, the 12-bit operation word of the command port, and the 32-bit result
(00_scope.md R15, 30_encoding.md R75, 10_state.md R39). Bit 0 is the least significant bit and every value is unsigned (R15).
-/

namespace Sys2Proof

/-- An unsigned 8-bit value (R15): register contents, operands and stream bytes. -/
abbrev Byte := BitVec 8

/-- An operation word as the command port accepts it (R38, R75). -/
abbrev OpWord := BitVec 12

/-- The result `RES` that an operation returns on the command port (R39). -/
abbrev Res := BitVec 32

end Sys2Proof
end

