-- ==== Sys2Proof/Machine/Bits.lean ====
section
/-!
DEFINITION. The two pure functions of 00_scope.md R18 and the block's two fixed constants (R10, R11).
-/

namespace Sys2Proof.Machine

/-- `HDR`, the fixed header marker (R10). -/
def headerMarker : Byte := 0x16#8

/-- `POLY`, the fixed CRC feedback constant (R11). -/
def crcPoly : Byte := 0x31#8

/-- `mirror8` of R18: bit `i` of the result is bit `7 - i` of the byte. -/
def mirror8 (b : Byte) : Byte :=
  BitVec.ofBool (b.getLsbD 0) ++ BitVec.ofBool (b.getLsbD 1) ++ BitVec.ofBool (b.getLsbD 2) ++ BitVec.ofBool (b.getLsbD 3) ++
    BitVec.ofBool (b.getLsbD 4) ++ BitVec.ofBool (b.getLsbD 5) ++ BitVec.ofBool (b.getLsbD 6) ++ BitVec.ofBool (b.getLsbD 7)

/-- One of the eight rounds of `crc_step` (R18): the register after the top bit of `c XOR v` is shifted in. -/
def crcRound (c v : Byte) : Byte :=
  if (c ^^^ v).getLsbD 7 then (c <<< 1) ^^^ crcPoly else c <<< 1

/-- `n` rounds of `crc_step`, the value shifted left after each (R18). -/
def crcRounds : Nat → Byte → Byte → Byte
  | 0, c, _ => c
  | n + 1, c, v => crcRounds n (crcRound c v) (v <<< 1)

/-- `crc_step` of R18: the register `c` after the byte `v` is fed, most significant bit first. -/
def crcStep (c v : Byte) : Byte := crcRounds 8 c v

end Sys2Proof.Machine
end

