-- ==== Sys2Proof/Config.lean ====
section
/-!
DEFINITION. What is fixed when a block is built and what the spec leaves OPEN: the buffer capacity `CAP` (R9), the
peripheral's command bytes (R13), and the free values. An `opaque` here has no body: no proof can see its value.
-/

namespace Sys2Proof

/-- The parameters one block is built with (00_scope.md R9). `CAP` is OPEN in the spec, so the model takes it as data and
every statement is parametric in it; no operation writes it (10_state.md R36). -/
structure Config where
  /-- `CAP`: the payload buffer's capacity in bytes. Its legal range `17 ≤ CAP ≤ 255` is `Config.wellFormed`. -/
  cap : Nat
deriving DecidableEq, Repr

/-- `CAP_REF = 32`, the reference value of R9. DESIGN CHOICE (log 4): the state after reset is built with it; unsafe for
statements about that one state, which hold of another capacity only where they are stated over `State.powerOn`. -/
def Config.reference : Config := { cap := 32 }

/-- `CMD_TEMP`: the temperature command byte, OPEN (R13, I5). A free value (log 9), read by the consumer protocols only. -/
opaque Config.cmdTemp : Byte

/-- `CMD_HUM`: the humidity command byte, OPEN (R13, I5). A free value (log 9), read by the consumer protocols only. -/
opaque Config.cmdHum : Byte

/-- `CMD_SOFTRESET`: the soft-reset command byte, OPEN (R13, I5). A free value (log 9), read by the consumer protocols only. -/
opaque Config.cmdSoftReset : Byte

/-- What the register `CRC` holds after the `n`-th `RST`: unspecified (R26, R158, I1), so a free value (log 6). -/
opaque Config.crcAfterRst : Nat → Byte

end Sys2Proof
end

