-- ==== Sys2Proof/Syntax.lean ====
section
/-!
DEFINITION. The operations of the command port, one constructor per row of spec/opcode_table.json (30_encoding.md R77);
the pseudo-instructions of R85; and the frame as a value (R66).
-/

namespace Sys2Proof

/-- An operation of the block (R77). A byte or offset operand is the `DATA` field unmodified (R76). The must-be-zero
operations carry no operand: a word of theirs with `DATA ≠ 0` is reserved, hence no operation at all (R80; log 10). -/
inductive Instr where
  /-- `NOP`, word 0x000 (R134). -/
  | nop
  /-- `CRC.SEED s`, `s` the status byte (R87). -/
  | crcSeed (s : Byte)
  /-- `CRC.UPD b`, `b` the byte to feed (R88). -/
  | crcUpd (b : Byte)
  /-- `CRC.CHK r`, `r` the checksum byte as received (R89). -/
  | crcChk (r : Byte)
  /-- `CRC.RD`, word 0x400 (R90). -/
  | crcRd
  /-- `CRC.RDM`, word 0x500 (R91). -/
  | crcRdm
  /-- `FD.PUSH b`, `b` the next stream byte (R107). -/
  | fdPush (b : Byte)
  /-- `FD.RDB o`, `o` an offset into the payload buffer (R113). -/
  | fdRdb (o : Byte)
  /-- `FD.RD16 o`, `o` the offset of the high byte (R114). -/
  | fdRd16 (o : Byte)
  /-- `FD.STAT`, word 0x900 (R115). -/
  | fdStat
  /-- `RST`, word 0xF00 (R135). -/
  | rst
deriving DecidableEq, Repr

/-- The pseudo-instructions of R85: text that stands for its expansion. -/
inductive Pseudo where
  /-- `CRC.START`: the design's seed. -/
  | crcStart
  /-- `CRC.TXN c, h, l, k`: one whole transaction. -/
  | crcTxn (c h l k : Byte)
  /-- `FD.FEED b1, ..., bn`. -/
  | fdFeed (bs : List Byte)
  /-- `FD.PM`: the three dust fields. -/
  | fdPm
deriving DecidableEq, Repr

/-- A frame of the wire format (R66): its payload and its checksum byte. The header is fixed and the length byte is the
payload's length, so neither is stored. -/
structure Frame where
  /-- The `N` payload bytes, payload offset `k` at stream position `k + 2`. -/
  payload : List Byte
  /-- The checksum byte at stream position `N + 2`. -/
  checksum : Byte
deriving DecidableEq, Repr

end Sys2Proof
end

