-- ==== Sys2Proof/WellFormed.lean ====
section
/-!
DEFINITION. What makes raw data meaningful: a legal operation word (R79, R80, R82), a legal capacity (R9), a frame whose
length fits its length byte (R66), a pseudo-instruction with operands (R85). An `Instr` needs no check of its own: its operands are
bytes by type, and each of its terms is one legal word (R82).
-/

namespace Sys2Proof

/-- The 12-bit word is an operation and not reserved: its `OP` is not one of 0xA to 0xE (R79), and where its `DATA` must be
zero it is (R80). -/
def OpWord.wellFormed (w : OpWord) : Bool :=
  let op := (w.extractLsb' 8 4).toNat
  let data := w.extractLsb' 0 8
  !(0xA ≤ op && op ≤ 0xE) && (!([0x0, 0x4, 0x5, 0x9, 0xF].contains op) || data == 0#8)

/-- The legal range of the capacity: `17 ≤ CAP ≤ 255` (R9). -/
def Config.wellFormed (c : Config) : Bool := 17 ≤ c.cap && c.cap ≤ 255

/-- A frame's payload length is one unsigned byte, `0..255` (R66). -/
def Frame.wellFormed (f : Frame) : Bool := f.payload.length ≤ 255

/-- The frame is within the capacity, so that the decoder decodes it (R68). -/
def Frame.fits (cap : Nat) (f : Frame) : Bool := f.wellFormed && f.payload.length ≤ cap

/-- `FD.FEED b1, ..., bn` names at least one byte (R85). -/
def Pseudo.wellFormed : Pseudo → Bool
  | .crcStart => true
  | .crcTxn _ _ _ _ => true
  | .fdFeed bs => !bs.isEmpty
  | .fdPm => true

end Sys2Proof
end

