-- ==== Sys2Proof/Decode.lean ====
section
/-!
DEFINITION. The operation word (30_encoding.md section 3): the decoder, total on 12-bit words and rejecting reserved ones by
name; the encoder; and the opcode table's rows as masks and matches (R86). Every operation is one word (R75, R83).
-/

namespace Sys2Proof

/-- Why a 12-bit word is no operation (R79, R80). Both raise the fault `ReservedEncoding` when the word is issued. -/
inductive Reserved where
  /-- `OP` is one of 0xA, 0xB, 0xC, 0xD, 0xE (R79). -/
  | opcode (op : BitVec 4)
  /-- The operation's `DATA` must be 0x00 and is not (R80). -/
  | dataNotZero (op : BitVec 4) (data : Byte)
deriving DecidableEq, Repr

/-- What a 12-bit word is: an operation, or reserved, for a reason (R82). -/
inductive Decoded where
  | instr (i : Instr)
  | reserved (why : Reserved)
deriving DecidableEq, Repr

/-- The `OP` field, bits 11:8 (R75). -/
def opField (w : OpWord) : BitVec 4 := w.extractLsb' 8 4

/-- The `DATA` field, bits 7:0 (R75). -/
def dataField (w : OpWord) : Byte := w.extractLsb' 0 8

/-- An operation word from its two fields (R75). -/
def opWord (op : BitVec 4) (data : Byte) : OpWord := op ++ data

/-- A must-be-zero operation: the word is the operation `i` only when `DATA = 0x00` (R80). -/
def decodeMustBeZero (i : Instr) (op : BitVec 4) (data : Byte) : Decoded :=
  if data = 0#8 then .instr i else .reserved (.dataNotZero op data)

/-- The operation a word is, by the opcode map of R77. -/
def decode (w : OpWord) : Decoded :=
  let op := opField w
  let data := dataField w
  match op.toNat with
  | 0x0 => decodeMustBeZero .nop op data
  | 0x1 => .instr (.crcSeed data)
  | 0x2 => .instr (.crcUpd data)
  | 0x3 => .instr (.crcChk data)
  | 0x4 => decodeMustBeZero .crcRd op data
  | 0x5 => decodeMustBeZero .crcRdm op data
  | 0x6 => .instr (.fdPush data)
  | 0x7 => .instr (.fdRdb data)
  | 0x8 => .instr (.fdRd16 data)
  | 0x9 => decodeMustBeZero .fdStat op data
  | 0xF => decodeMustBeZero .rst op data
  | _ => .reserved (.opcode op)

/-- The word of an operation (R77). -/
def encode : Instr → OpWord
  | .nop => opWord 0x0#4 0x00#8
  | .crcSeed s => opWord 0x1#4 s
  | .crcUpd b => opWord 0x2#4 b
  | .crcChk r => opWord 0x3#4 r
  | .crcRd => opWord 0x4#4 0x00#8
  | .crcRdm => opWord 0x5#4 0x00#8
  | .fdPush b => opWord 0x6#4 b
  | .fdRdb o => opWord 0x7#4 o
  | .fdRd16 o => opWord 0x8#4 o
  | .fdStat => opWord 0x9#4 0x00#8
  | .rst => opWord 0xF#4 0x00#8

/-- One row of the opcode table (R86): a word selects the row when the word under `mask` is `pattern`. -/
structure OpcodeRow where
  mnemonic : String
  pattern : OpWord
  mask : OpWord
deriving DecidableEq, Repr

/-- The opcode table's rows in its order (R77, R86). -/
def opcodeTable : List OpcodeRow :=
  [ { mnemonic := "NOP", pattern := 0x000#12, mask := 0xFFF#12 },
    { mnemonic := "CRC.SEED", pattern := 0x100#12, mask := 0xF00#12 },
    { mnemonic := "CRC.UPD", pattern := 0x200#12, mask := 0xF00#12 },
    { mnemonic := "CRC.CHK", pattern := 0x300#12, mask := 0xF00#12 },
    { mnemonic := "CRC.RD", pattern := 0x400#12, mask := 0xFFF#12 },
    { mnemonic := "CRC.RDM", pattern := 0x500#12, mask := 0xFFF#12 },
    { mnemonic := "FD.PUSH", pattern := 0x600#12, mask := 0xF00#12 },
    { mnemonic := "FD.RDB", pattern := 0x700#12, mask := 0xF00#12 },
    { mnemonic := "FD.RD16", pattern := 0x800#12, mask := 0xF00#12 },
    { mnemonic := "FD.STAT", pattern := 0x900#12, mask := 0xFFF#12 },
    { mnemonic := "RST", pattern := 0xF00#12, mask := 0xFFF#12 } ]

/-- The word selects the row (R86). -/
def OpcodeRow.selects (r : OpcodeRow) (w : OpWord) : Bool := (w &&& r.mask) == r.pattern

/-- An operation's mnemonic, as the opcode table spells it (R77). -/
def Instr.mnemonic : Instr → String
  | .nop => "NOP"
  | .crcSeed _ => "CRC.SEED"
  | .crcUpd _ => "CRC.UPD"
  | .crcChk _ => "CRC.CHK"
  | .crcRd => "CRC.RD"
  | .crcRdm => "CRC.RDM"
  | .fdPush _ => "FD.PUSH"
  | .fdRdb _ => "FD.RDB"
  | .fdRd16 _ => "FD.RD16"
  | .fdStat => "FD.STAT"
  | .rst => "RST"

/-- The instruction the decoder reads from a table word `w` of `nbits` bits. An operation word has 12 bits (R75), so a value
with a bit above bit 11 is no operation word, and is refused (log 11). -/
def decodeTableWord (nbits w : Nat) : Option Instr :=
  let v := w % 2 ^ nbits
  if v < 4096 then
    match decode (BitVec.ofNat 12 v) with
    | .instr i => some i
    | .reserved _ => none
  else none

end Sys2Proof
end

