-- ==== Sys2Proof/Machine/State.lean ====
section
/-!
DEFINITION. The state of one block as plain data (10_state.md R23), the fault record, the reasons a step can stop, and the
state after power-on reset (70_reset_and_hazards.md R158).
-/

namespace Sys2Proof.Machine

/-- The payload buffer `BUF` with its written bits `W` (R33, R34), as one list of (offset, byte) pairs, offsets strictly
rising: a cell is listed exactly when its `W` is 1, and an unlisted cell has no value (log 7). -/
abbrev Memory := List Host.Cell

/-- The decoder state `ST` (R28), under the source's names; its 2-bit code is `DecoderState.bits`. -/
inductive DecoderState where
  /-- Seeking the header marker. -/
  | awaitHeader
  /-- Header seen; the next byte is the length. -/
  | awaitLength
  /-- Storing payload bytes. -/
  | accumulatePayload
  /-- The next byte is the checksum. -/
  | awaitChecksum
deriving DecidableEq, Repr

/-- The closed set of four fault codes (60_exceptions.md R138). -/
inductive FaultCode where
  | reservedEncoding
  | crcUnseeded
  | bufRange
  | bufUnwritten
deriving DecidableEq, Repr

/-- What `FAULT` records (R139, R140): the code, the 12-bit word, and for the two buffer faults an offset. Recording one is
the spec's own effect, a next state after which the block is stuck; it stops the model where hardware would return some value,
which is safe (R156). -/
inductive FaultRecord where
  /-- A reserved word was issued (R79, R80). Raised by the command port on such a word. Safe. -/
  | reservedEncoding (word : OpWord)
  /-- `CRCV = 0` (R27). Raised by `CRC.UPD`, `CRC.CHK`, `CRC.RD`, `CRC.RDM`. Safe. -/
  | crcUnseeded (word : OpWord)
  /-- A read cell lies outside `0..CAP-1`; `offset` is the `DATA` field. Raised by `FD.RDB`, `FD.RD16`. Safe. -/
  | bufRange (word : OpWord) (offset : Nat)
  /-- A read cell was never written since reset; `offset` is the first such cell. Raised by `FD.RDB`, `FD.RD16`. Safe. -/
  | bufUnwritten (word : OpWord) (offset : Nat)
deriving DecidableEq, Repr

/-- The one reason a step stops with a fault. -/
inductive Fault where
  /-- The block has a recorded fault: it takes no step and accepts no operation, `RST` included (R40, R141, I9). Raised by
  every step and every operation of a block whose `FAULT` is not `none`. Safe: the spec says that the block is stuck. -/
  | stopped (record : FaultRecord)
deriving DecidableEq, Repr

/-- The one reason a step is refused. -/
inductive Refusal where
  /-- An operation that has no meaning in this model. Raised by no arm of `exec`: every operation has its meaning. Safe. -/
  | notModelled (mnemonic : String)
deriving DecidableEq, Repr

/-- The state of one block: the rows of R23 under the spec's names (`BUF` and `W` are the one field `buf`), then what the
model adds to run it: the parameters it was built with, its command port (R38, R39; log 1, log 2), and a counter that feeds
the free values (log 6). -/
structure State where
  /-- The parameters the block was built with (R9). -/
  config : Config
  /-- `CRC`, the accumulator (R26). -/
  crc : Byte
  /-- `CRCV`: `CRC` holds a value (R27). -/
  crcv : Bool
  /-- `ST`, the decoder state (R28). -/
  st : DecoderState
  /-- `CK`, the running checksum modulo 256 (R29). -/
  ck : Byte
  /-- `LEN`, the declared payload length (R30). -/
  len : Byte
  /-- `IDX`, the payload index (R31). -/
  idx : Byte
  /-- `BUF` and `W`, the payload buffer and its written bits (R33, R34). -/
  buf : Memory
  /-- `FAULT`, the fault record; `none` while the block accepts operations (R40). -/
  fault : Option FaultRecord
  /-- The model's own: the words offered on the command port and not yet accepted, in order (R38; log 1). -/
  port : List OpWord
  /-- The model's own: the `RES` the latest step returned; `none` where it returned none (R39, R141; log 2). -/
  res : Option Res
  /-- The model's own: how many `RST` have been executed, the argument of the free values (log 6). -/
  rstCount : Nat
deriving DecidableEq, Repr

/-- The state at power-on of a block built with `c` (R158, R175). `CRC` has no specified value there: 0x00 is the model's
(DESIGN CHOICE, log 5, unsafe). The port is empty: no operation has been issued (R160). -/
def State.powerOn (c : Config) : State :=
  { config := c
    crc := 0x00#8
    crcv := false
    st := .awaitHeader
    ck := 0x00#8
    len := 0x00#8
    idx := 0x00#8
    buf := []
    fault := none
    port := []
    res := none
    rstCount := 0 }

/-- The state right after reset, for a block built with the reference capacity (R158; log 4). -/
def State.reset : State := State.powerOn Config.reference

end Sys2Proof.Machine
end

