-- ==== Sys2Proof/Machine/Flags.lean ====
section
/-!
DEFINITION. The per-operation signals and the layouts of `RES` (30_encoding.md R78). The block latches no flag (10_state.md
R35): `DONE`, `OK`, `OVF` and `MATCH` exist only in the result built here.
-/

namespace Sys2Proof.Machine

/-- The signals of one `FD.PUSH` (R107). -/
structure Signals where
  /-- `DONE`: this byte completed a frame. -/
  done : Bool
  /-- `OK`: the completed frame's bytes sum to zero. -/
  ok : Bool
  /-- `OVF`: this length byte exceeded the capacity. -/
  ovf : Bool
deriving DecidableEq, Repr

/-- `DONE = OK = OVF = 0` (R107). -/
def Signals.quiet : Signals := { done := false, ok := false, ovf := false }

/-- `RES` of an operation that returns nothing (R39, R78). -/
def emptyRes : Res := 0#32

/-- `RES` of `FD.PUSH`: bit 0 `DONE`, bit 1 `OK`, bit 2 `OVF` (R78, R107). -/
def pushRes (e : Signals) : Res :=
  (BitVec.ofBool e.ovf ++ BitVec.ofBool e.ok ++ BitVec.ofBool e.done).zeroExtend 32

/-- `RES` of `CRC.CHK`: bit 0 `MATCH` (R78, R89). -/
def matchRes (b : Bool) : Res := (BitVec.ofBool b).zeroExtend 32

/-- `RES` of a one-byte read: bits 7:0 (R78). -/
def byteRes (b : Byte) : Res := b.zeroExtend 32

/-- `RES` of `FD.RD16`: bits 15:0, big-endian, the byte at the lower offset the more significant (R50, R78). -/
def fieldRes (hi lo : Byte) : Res := (hi ++ lo).zeroExtend 32

/-- The 2-bit code of `ST` (R28). -/
def DecoderState.bits : DecoderState → BitVec 2
  | .awaitHeader => 0b00#2
  | .awaitLength => 0b01#2
  | .accumulatePayload => 0b10#2
  | .awaitChecksum => 0b11#2

/-- `RES` of `FD.STAT`: `IDX`, `LEN`, `CK`, six zero bits, `ST` (R78, R115). -/
def statRes (s : State) : Res := s.idx ++ s.len ++ s.ck ++ 0#6 ++ s.st.bits

end Sys2Proof.Machine
end

