-- ==== Sys2Proof/Machine/Operands.lean ====
section
/-!
DEFINITION. Operand assembly (30_encoding.md R76). A byte value is the `DATA` field unmodified, which is the operand of
`Instr` itself; an offset is zero-extended to 9 bits, so that the next offset does not wrap; a must-be-zero operand is
checked by the decoder (R80) and leaves none here.
-/

namespace Sys2Proof.Machine

/-- The buffer offset that `DATA` names: `zext_9(DATA)` (R48, R76). -/
def offset (o : Byte) : Nat := (o.zeroExtend 9).toNat

/-- The offset of the low byte of a 16-bit field: `o + 1` computed in 9 bits, so that it cannot wrap (R76, R114). -/
def nextOffset (o : Byte) : Nat := (o.zeroExtend 9 + 1#9).toNat

end Sys2Proof.Machine
end

