-- ==== Sys2Proof/Machine/Ops.lean ====
section
/-!
DEFINITION. The shared operations: the payload buffer, the command port, accepting an operation, returning its result, and
raising a fault (60_exceptions.md section 1). There is no return from a fault: a recorded fault is never cleared (R148), so none
stands beside `raise`.
-/

namespace Sys2Proof.Machine

/-! ## The payload buffer (20_memory.md) -/

/-- The value of cell `a`; `none` where it was never written since reset (R34). -/
def Memory.read : Memory → Nat → Option Byte
  | [], _ => none
  | (k, v) :: m, a => if k = a then some v else Memory.read m a

/-- The buffer with cell `a` listed as `b`, in the place that keeps the offsets rising. -/
def Memory.insert : Memory → Nat → Byte → Memory
  | [], a, b => [(a, b)]
  | (k, v) :: m, a, b =>
    if a < k then (a, b) :: (k, v) :: m
    else if a = k then (a, b) :: m
    else (k, v) :: Memory.insert m a b

/-- `BUF[a] <- b; W[a] <- 1` in a buffer of `cap` cells (R17, R110). An offset of `cap` or more names no cell (R48): nothing
is written there. The decoder never asks for that in a state that a run reaches (R32, R118; log 8). -/
def Memory.write (cap : Nat) (m : Memory) (a : Nat) (b : Byte) : Memory :=
  if a < cap then Memory.insert m a b else m

/-- `W[a]`: cell `a` was written since reset (R34). -/
def Memory.written (m : Memory) (a : Nat) : Bool := (Memory.read m a).isSome

/-- The canonical form: offsets strictly rising. Every entry differs from what an unlisted cell reads as, no value. -/
def Memory.wf : Memory → Bool
  | [] => true
  | [_] => true
  | (k, _) :: (k', v') :: m => k < k' && Memory.wf ((k', v') :: m)

/-- Every listed cell is one of `0..cap-1` (R33, R48). -/
def Memory.within (cap : Nat) (m : Memory) : Bool := m.all fun c => c.1 < cap

/-- The bytes of cells `0..n-1`; `none` where one of them has no value. -/
def Memory.take (m : Memory) : Nat → Option (List Byte)
  | 0 => some []
  | n + 1 =>
    match Memory.take m n, Memory.read m n with
    | some bs, some b => some (bs ++ [b])
    | _, _ => none

/-! ## The fault record (R140) -/

/-- The record's code (R138). -/
def FaultRecord.code : FaultRecord → FaultCode
  | .reservedEncoding _ => .reservedEncoding
  | .crcUnseeded _ => .crcUnseeded
  | .bufRange _ _ => .bufRange
  | .bufUnwritten _ _ => .bufUnwritten

/-- The record's 12-bit word (R139). -/
def FaultRecord.word : FaultRecord → OpWord
  | .reservedEncoding w => w
  | .crcUnseeded w => w
  | .bufRange w _ => w
  | .bufUnwritten w _ => w

/-- The record's offset, present only for the two buffer faults (R140). -/
def FaultRecord.offset? : FaultRecord → Option Nat
  | .reservedEncoding _ => none
  | .crcUnseeded _ => none
  | .bufRange _ o => some o
  | .bufUnwritten _ o => some o

/-! ## Named updates of the state -/

/-- `RES <- v` (R17). -/
def State.answer (s : State) (v : Res) : State := { s with res := some v }

/-- `FAULT` records `r`, and no `RES` is returned (R140, R141). -/
def State.record (s : State) (r : FaultRecord) : State := { s with fault := some r, res := none }

/-- `CRC <- c` (R17). -/
def State.writeCrc (s : State) (c : Byte) : State := { s with crc := c }

/-- `CRC <- c; CRCV <- 1` (R27, R87). -/
def State.seedCrc (s : State) (c : Byte) : State := { s with crc := c, crcv := true }

/-- The reset values of R158 applied to both units: `CRC` gets an unspecified value (R26), every cell becomes unwritten;
`FAULT` is not touched (R157). -/
def State.resetUnits (s : State) : State :=
  { s with
    crc := Config.crcAfterRst s.rstCount
    crcv := false
    st := .awaitHeader
    ck := 0x00#8
    len := 0x00#8
    idx := 0x00#8
    buf := []
    rstCount := s.rstCount + 1 }

/-! ## Running an operation -/

/-- What one step of the block answers. -/
abbrev Answer := Host.Outcome State Fault Refusal

/-- The first check of every operation (R145): a block with a recorded fault accepts nothing (R40, R141). -/
def accept (s : State) (k : State → Answer) : Answer :=
  match s.fault with
  | some r => .fault (.stopped r)
  | none => k s

/-- End an operation with the result `v` (R39). -/
def reply (v : Res) (s : State) : Answer := .next (s.answer v)

/-- TAKING A FAULT: `raise Fault(code)` (R17, R141). The fault is recorded, no `RES` is returned and nothing else is
written; from the next step on the block is stuck (R40). There is no trap entry: no mode, no vector, no saved state (R147). -/
def raise (r : FaultRecord) (s : State) : Answer := .next (s.record r)

/-- Read `CRC` for the operation with word `w`: `CrcUnseeded` while it holds no value (R27). -/
def withCrc (w : OpWord) (s : State) (k : Byte → Answer) : Answer :=
  if s.crcv then k s.crc else raise (.crcUnseeded w) s

/-- Check a read whose highest cell is `top` against the capacity, for the operation with word `w` and `DATA` offset `o`:
`BufRange` outside `0..CAP-1` (R139). -/
def inRange (w : OpWord) (o top : Nat) (s : State) (k : Answer) : Answer :=
  if s.config.cap ≤ top then raise (.bufRange w o) s else k

/-- `MemRead(a, 1)` for the operation with word `w`: `BufUnwritten` while the cell holds no value (R34, R139). -/
def withCell (w : OpWord) (a : Nat) (s : State) (k : Byte → Answer) : Answer :=
  match Memory.read s.buf a with
  | some b => k b
  | none => raise (.bufUnwritten w a) s

/-! ## The command port (R38) -/

/-- The word the port accepts in this step, with the state after it is taken off; `none` where none is offered (log 1). -/
def fetch (s : State) : Option (OpWord × State) :=
  match s.port with
  | [] => none
  | w :: rest => some (w, { s with port := rest })

/-- A step in which no operation is issued: the block holds its state and returns no `RES` (R43, R123, R174; log 1). -/
def idle (s : State) : Answer := accept s fun s => .next { s with res := none }

/-- A reserved word: it changes no state and raises `ReservedEncoding` (R79, R80). -/
def rejectReserved (w : OpWord) (s : State) : Answer := accept s fun s => raise (.reservedEncoding w) s

/-- Words offered by the consumer, behind those already waiting (R42). A move of the host, not of the block. -/
def State.offer (s : State) (ws : List OpWord) : State := { s with port := s.port ++ ws }

/-- The state in which the next step accepts the word with bits `w`, `nbits` of them given (log 1). -/
def State.offerFirst (s : State) (nbits w : Nat) : State :=
  { s with port := BitVec.ofNat 12 (w % 2 ^ nbits) :: s.port }

end Sys2Proof.Machine
end

