-- ==== Sys2Proof/Machine/Control.lean ====
section
/-!
DEFINITION. The control operations (42_control.md).
-/

namespace Sys2Proof.Machine

/-- `NOP` (R134): it changes no state and returns `RES = 0`. -/
def execNop (s : State) : Answer := accept s fun s => reply emptyRes s

/-- `RST` (R135): the reset values of R158 applied to both units. A block with a recorded fault does not accept it (R40). -/
def execRst (s : State) : Answer := accept s fun s => reply emptyRes s.resetUnits

end Sys2Proof.Machine
end

