-- ==== Sys2Proof/Machine/Crc.lean ====
section
/-!
DEFINITION. The CRC unit's operations (40_crc.md section 1). None reads or writes the frame decoder's state (R8, R124).
-/

namespace Sys2Proof.Machine

/-- `CRC.SEED s` (R87): legal whether `CRCV` is 0 or 1, and for any byte. -/
def execCrcSeed (b : Byte) (s : State) : Answer :=
  accept s fun s => reply emptyRes (s.seedCrc (mirror8 b))

/-- `CRC.UPD b` (R88). -/
def execCrcUpd (b : Byte) (s : State) : Answer :=
  accept s fun s => withCrc (encode (.crcUpd b)) s fun c => reply emptyRes (s.writeCrc (crcStep c b))

/-- `CRC.CHK r` (R89): the received byte mirrored, against the register; the byte is not fed. -/
def execCrcChk (r : Byte) (s : State) : Answer :=
  accept s fun s => withCrc (encode (.crcChk r)) s fun c => reply (matchRes (mirror8 r == c)) s

/-- `CRC.RD` (R90). -/
def execCrcRd (s : State) : Answer :=
  accept s fun s => withCrc (encode .crcRd) s fun c => reply (byteRes c) s

/-- `CRC.RDM` (R91). -/
def execCrcRdm (s : State) : Answer :=
  accept s fun s => withCrc (encode .crcRdm) s fun c => reply (byteRes (mirror8 c)) s

end Sys2Proof.Machine
end

