-- ==== Sys2Proof/Machine/FrameDecoder.lean ====
section
/-!
DEFINITION. The frame decoder unit's operations (41_frame_decoder.md sections 1 and 2). None reads or writes the CRC unit's
state (R8, R124). Each arm of `FD.PUSH` answers the state after it and the signals it raises.
-/

namespace Sys2Proof.Machine

/-- `FD.PUSH b` in `AWAIT_HEADER` (R108): every byte seeds `CK`, and every byte is tried as a header. -/
def pushHeader (b : Byte) (s : State) : State × Signals :=
  ({ s with ck := b, st := if b = headerMarker then .awaitLength else .awaitHeader }, .quiet)

/-- `FD.PUSH b` in `AWAIT_LENGTH` (R109): a length within capacity is accepted; a longer one is the overflow, on which
`LEN` and `IDX` keep their values. -/
def pushLength (b : Byte) (s : State) : State × Signals :=
  if b.toNat ≤ s.config.cap then
    ({ s with
        ck := s.ck + b
        len := b
        idx := 0x00#8
        st := if b = 0x00#8 then .awaitChecksum else .accumulatePayload }, .quiet)
  else
    ({ s with ck := s.ck + b, st := .awaitHeader }, { Signals.quiet with ovf := true })

/-- `FD.PUSH b` in `ACCUMULATE_PAYLOAD` (R110): the byte is stored at `IDX`, and the index then compared with `LEN`. -/
def pushPayload (b : Byte) (s : State) : State × Signals :=
  ({ s with
      ck := s.ck + b
      buf := Memory.write s.config.cap s.buf s.idx.toNat b
      idx := s.idx + 1#8
      st := if s.idx + 1#8 = s.len then .awaitChecksum else .accumulatePayload }, .quiet)

/-- `FD.PUSH b` in `AWAIT_CHECKSUM` (R111): the frame is complete, and valid when the sum with this byte is zero. -/
def pushChecksum (b : Byte) (s : State) : State × Signals :=
  ({ s with ck := s.ck + b, st := .awaitHeader }, { Signals.quiet with done := true, ok := s.ck + b == 0x00#8 })

/-- The arm that `ST` before the operation selects (R107). -/
def pushArm (b : Byte) (s : State) : State × Signals :=
  match s.st with
  | .awaitHeader => pushHeader b s
  | .awaitLength => pushLength b s
  | .accumulatePayload => pushPayload b s
  | .awaitChecksum => pushChecksum b s

/-- `FD.PUSH b` (R107): it raises no fault, for every byte and every state (R44). -/
def execFdPush (b : Byte) (s : State) : Answer :=
  accept s fun s => reply (pushRes (pushArm b s).2) (pushArm b s).1

/-- `FD.RDB o` (R113). -/
def execFdRdb (o : Byte) (s : State) : Answer :=
  accept s fun s =>
    let w := encode (.fdRdb o)
    inRange w (offset o) (offset o) s
      (withCell w (offset o) s fun b => reply (byteRes b) s)

/-- `FD.RD16 o` (R114): the range, then cell `o`, then cell `o + 1` (R145). -/
def execFdRd16 (o : Byte) (s : State) : Answer :=
  accept s fun s =>
    let w := encode (.fdRd16 o)
    inRange w (offset o) (nextOffset o) s
      (withCell w (offset o) s fun hi =>
        withCell w (nextOffset o) s fun lo => reply (fieldRes hi lo) s)

/-- `FD.STAT` (R115). -/
def execFdStat (s : State) : Answer := accept s fun s => reply (statRes s) s

end Sys2Proof.Machine
end

