-- ==== Sys2Proof/Machine/Dispatch.lean ====
section
/-!
DEFINITION. The meaning of each operation of the opcode table (30_encoding.md R77), one arm per constructor of `Instr`.
-/

namespace Sys2Proof.Machine

def exec (i : Instr) (s : State) : Host.Outcome State Fault Refusal :=
  match i with
  | .nop => Sys2Proof.Machine.execNop s
  | .crcSeed b => Sys2Proof.Machine.execCrcSeed b s
  | .crcUpd b => Sys2Proof.Machine.execCrcUpd b s
  | .crcChk r => Sys2Proof.Machine.execCrcChk r s
  | .crcRd => Sys2Proof.Machine.execCrcRd s
  | .crcRdm => Sys2Proof.Machine.execCrcRdm s
  | .fdPush b => Sys2Proof.Machine.execFdPush b s
  | .fdRdb o => Sys2Proof.Machine.execFdRdb o s
  | .fdRd16 o => Sys2Proof.Machine.execFdRd16 o s
  | .fdStat => Sys2Proof.Machine.execFdStat s
  | .rst => Sys2Proof.Machine.execRst s

end Sys2Proof.Machine
end

