-- ==== Sys2Proof/Machine/Step.lean ====
section
/-!
DEFINITION. One step of the block: it accepts the next word offered on its command port and performs it whole (R38, R56,
R137, R171); where none is offered it holds its state (R174).
-/

namespace Sys2Proof.Machine

/-- One step (R38). The order of its checks is R145's: `idle`, `rejectReserved` and every meaning begin by asking whether a
fault is recorded; then a reserved word is rejected; then the operation makes its own checks. -/
def step (s : State) : Host.Outcome State Fault Refusal :=
  match fetch s with
  | none => idle s
  | some (w, t) =>
    match decode w with
    | .instr i => exec i t
    | .reserved _ => rejectReserved w t

/-- The state in which the very next step accepts the operation word with bits `w`, ahead of any other word (log 1). -/
def State.withFetchWord (s : State) (nbits w : Nat) : State := s.offerFirst nbits w

end Sys2Proof.Machine
end

