-- ==== Sys2Proof/Machine/Run.lean ====
section
/-!
DEFINITION. Runs and what they show (00_scope.md R19): the sequence of `RES` values and, in the last state, the fault. A run is
followed in two ways: as operations issued one by one (`issue`), and as steps of the machine (`trace`).
-/

namespace Sys2Proof.Machine

/-- Issue operations in order on a block. The results in order and the last state; a block with a recorded fault accepts
none of those that are left (R40). -/
def issue : List Instr → State → List Res × State
  | [], s => ([], s)
  | i :: is, s =>
    match exec i s with
    | .next t => (t.res.toList ++ (issue is t).1, (issue is t).2)
    | .fault _ => ([], s)
    | .refused _ => ([], s)

/-- Present stream bytes in order, one `FD.PUSH` each (R43). -/
def pushAll (bs : List Byte) (s : State) : List Res × State := issue (bs.map Instr.fdPush) s

/-- `n` steps of the machine: the results in order and the last state. A block with a recorded fault takes none of the steps
that are left (R40). -/
def trace : Nat → State → List Res × State
  | 0, s => ([], s)
  | n + 1, s =>
    match step s with
    | .next t => (t.res.toList ++ (trace n t).1, (trace n t).2)
    | .fault _ => ([], s)
    | .refused _ => ([], s)

end Sys2Proof.Machine
end

