-- ==== Sys2Proof/Machine/Consumer.lean ====
section
/-!
DEFINITION. The consumer's side, as far as the spec states it: the pseudo-instructions (30_encoding.md R85), how the source's
software drives the CRC unit (40_crc.md section 3) and the frame decoder (41_frame_decoder.md section 4). These rules bind the
consumer; the block does not enforce them (10_state.md R42).
-/

namespace Sys2Proof

/-- What a pseudo-instruction stands for (R85). -/
def Pseudo.expand : Pseudo → List Instr
  | .crcStart => [.crcSeed 0x00#8]
  | .crcTxn c h l k => [.crcSeed 0x00#8, .crcUpd c, .crcUpd h, .crcUpd l, .crcChk k]
  | .fdFeed bs => bs.map .fdPush
  | .fdPm => [.fdRd16 3#8, .fdRd16 7#8, .fdRd16 11#8]

namespace Machine

/-- `MATCH` of a `CRC.CHK` result (R78). -/
def resMatch (r : Res) : Bool := r.getLsbD 0

/-- `DONE` of an `FD.PUSH` result (R78). -/
def resDone (r : Res) : Bool := r.getLsbD 0

/-- `OK` of an `FD.PUSH` result (R78). -/
def resOk (r : Res) : Bool := r.getLsbD 1

/-- `OVF` of an `FD.PUSH` result (R78). -/
def resOvf (r : Res) : Bool := r.getLsbD 2

/-! ## Measurement transactions (R99 to R104) -/

/-- The three bytes a peripheral answers a command with, in the order they pass the bus (R73). -/
structure Received where
  hi : Byte
  lo : Byte
  check : Byte
deriving DecidableEq, Repr

/-- What the bus brings a transaction after its command byte (R99, R100). -/
inductive BusAnswer where
  /-- The peripheral did not acknowledge the command byte. -/
  | noAcknowledge
  /-- The ready-poll timed out. -/
  | timeout
  /-- The peripheral answered with its three bytes. -/
  | bytes (x : Received)
deriving DecidableEq, Repr

/-- How a transaction ends: its raw code, or one of the recoverable transaction failures (R99, R100, R106; 60_exceptions.md
R143). -/
inductive TransactionEnd where
  /-- `CRC.CHK` returned `MATCH = 1`; the raw code is `{hi, lo}` (R51). -/
  | success (raw : BitVec 16)
  /-- `CRC.CHK` returned `MATCH = 0` (R106). -/
  | crcError
  /-- The acknowledge of the command byte was missing (R100). -/
  | noAcknowledge
  /-- The ready-poll timed out (R100). -/
  | timeout
deriving DecidableEq, Repr

/-- What every transaction issues whatever the bus brings: the seed, and the command byte, fed regardless of its acknowledge
(R99, R100). -/
def sendCommand (cmd : Byte) : List Instr := Pseudo.crcStart.expand ++ [.crcUpd cmd]

/-- The operations a transaction issues: without an acknowledge, or after a timeout, it is abandoned after the `CRC.UPD` of
its command (R100); otherwise it is the sequence of R99. -/
def transactionOps (cmd : Byte) : BusAnswer → List Instr
  | .noAcknowledge => sendCommand cmd
  | .timeout => sendCommand cmd
  | .bytes x => Pseudo.expand (.crcTxn cmd x.hi x.lo x.check)

/-- How a transaction with these results ends (R99, R100): one that reached its compare succeeds exactly on `MATCH = 1`. On a
block with a recorded fault there are no results, and the spec gives no end (R40): the end is then `crcError` where the peripheral
answered, and else the bus failure (DESIGN CHOICE, log 21). -/
def transactionEnd (rs : List Res) : BusAnswer → TransactionEnd
  | .noAcknowledge => .noAcknowledge
  | .timeout => .timeout
  | .bytes x => if resMatch (rs.getD 4 0#32) then .success (x.hi ++ x.lo) else .crcError

/-- One transaction (R99, R100): how it ends, with the block after it. A block with a recorded fault stays as it is (R40; the
end is log 21's). -/
def transact (cmd : Byte) (a : BusAnswer) (s : State) : TransactionEnd × State :=
  (transactionEnd (issue (transactionOps cmd a) s).1 a, (issue (transactionOps cmd a) s).2)

/-- The consumer's liberty to abandon a transaction at any point: the block after the first `n` of its operations (10_state.md
R42). The two failures of R100 are `transact`'s own. -/
def abandon (n : Nat) (cmd : Byte) (x : Received) (s : State) : State :=
  (issue ((transactionOps cmd (.bytes x)).take n) s).2

/-- The bus recovery sequence: a seed of zero and the soft-reset command, no compare (R102). -/
def busRecovery : List Instr := sendCommand Config.cmdSoftReset

/-- The raw codes of one measurement cycle. -/
structure RawReading where
  temperature : BitVec 16
  humidity : BitVec 16
deriving DecidableEq, Repr

/-- A sensor's driver: its block and the latest reading, in raw codes (R104; the conversion is out of scope, R7). -/
structure Session where
  block : State
  latest : Option RawReading
deriving DecidableEq, Repr

/-- One measurement cycle (R104): the temperature transaction, then the humidity transaction; a transaction that fails, by a
missing acknowledge, a timeout or a CRC error, aborts the cycle and leaves the latest reading as it was. On a block with a recorded fault the temperature transaction fails, so
the latest reading stays (log 21). -/
def Session.measure (temp hum : BusAnswer) (x : Session) : Session :=
  match transact Config.cmdTemp temp x.block with
  | (.success t, s) =>
    match transact Config.cmdHum hum s with
    | (.success h, s') => { block := s', latest := some { temperature := t, humidity := h } }
    | (.crcError, s') => { x with block := s' }
    | (.noAcknowledge, s') => { x with block := s' }
    | (.timeout, s') => { x with block := s' }
  | (.crcError, s) => { x with block := s }
  | (.noAcknowledge, s) => { x with block := s }
  | (.timeout, s) => { x with block := s }

/-! ## The stream reader (R125 to R131) -/

/-- The three fields of a valid frame (R128). -/
structure DustReading where
  pm25 : BitVec 16
  pm1 : BitVec 16
  pm10 : BitVec 16
deriving DecidableEq, Repr

/-- The stream reader: its block and the last published reading (R125, R127). -/
structure Reader where
  block : State
  published : Option DustReading
deriving DecidableEq, Repr

/-- Extraction (R128): the three fields as one value where all three reads answered (R129). A read of a cell that was
never written faults, and then nothing is published (R130). The length is not checked (R131). -/
def extract (s : State) : Option DustReading × State :=
  let r := issue Pseudo.fdPm.expand s
  (match r.1 with
   | [a, b, c] => some { pm25 := a.setWidth 16, pm1 := b.setWidth 16, pm10 := c.setWidth 16 }
   | _ => none, r.2)

/-- One byte of the reader loop (R125): push it; on a complete valid frame extract and publish; otherwise the published
reading stays (R127). -/
def Reader.feed (r : Reader) (b : Byte) : Reader :=
  let p := issue [.fdPush b] r.block
  match p.1 with
  | [res] =>
    if resDone res && resOk res then
      match extract p.2 with
      | (some d, s) => { block := s, published := some d }
      | (none, s) => { r with block := s }
    else { r with block := p.2 }
  | _ => { r with block := p.2 }

/-- One `readBytes` of the reader loop: its bytes in order, none of them for a zero-length read (R43, R125). -/
def Reader.feedAll (r : Reader) (bs : List Byte) : Reader := bs.foldl Reader.feed r

end Machine

end Sys2Proof
end

