-- ==== Sys2Proof/Machine/Frame.lean ====
section
/-!
DEFINITION. The frame wire format (30_encoding.md section 1): a frame's bytes in stream order and when it is valid.
-/

namespace Sys2Proof

/-- The length byte `N` (R66). -/
def Frame.lengthByte (f : Frame) : Byte := BitVec.ofNat 8 f.payload.length

/-- The frame's `N + 3` bytes in stream order: header, length, payload, checksum (R66). -/
def Frame.bytes (f : Frame) : List Byte :=
  Machine.headerMarker :: f.lengthByte :: (f.payload ++ [f.checksum])

/-- The sum of a byte sequence in the unbounded integers (R16, R67). -/
def sumInt : List Byte → Nat
  | [] => 0
  | b :: bs => b.toNat + sumInt bs

/-- The sum of a byte sequence modulo 256 (R16). -/
def sumByte : List Byte → Byte
  | [] => 0x00#8
  | b :: bs => b + sumByte bs

/-- A frame is valid when header, length, payload and checksum sum to zero modulo 256 (R67). -/
def Frame.valid (f : Frame) : Bool :=
  (Machine.headerMarker.toNat + f.payload.length + sumInt f.payload + f.checksum.toNat) % 256 == 0

/-- The checksum byte that makes a frame with this payload valid (R67). -/
def checksumFor (payload : List Byte) : Byte :=
  BitVec.ofNat 8 ((256 - (Machine.headerMarker.toNat + payload.length + sumInt payload) % 256) % 256)

/-- The source's reference datagram as a frame (R71). -/
def referenceFrame : Frame :=
  { payload := [0x0B#8, 0x00#8, 0x00#8, 0x03#8, 0xE8#8, 0x00#8, 0x00#8, 0x07#8, 0xD0#8, 0x00#8, 0x00#8, 0x0B#8, 0xB8#8,
      0x00#8, 0x00#8, 0x00#8, 0x00#8]
    checksum := 0x49#8 }

end Sys2Proof
end

