-- ==== Sys2Proof/Machine/Platform.lean ====
section
/-!
DEFINITION. A platform of `N_INST` blocks, each with its own state and command port (00_scope.md R12, 10_state.md R47,
60_exceptions.md R153). A block's identifier is the place of its port in the list.
-/

namespace Sys2Proof.Machine

/-- The blocks of a platform, by port. -/
abbrev Platform := List State

/-- At least one block, each of a legal capacity (R9, R12). -/
def Platform.wellFormed (p : Platform) : Bool := !p.isEmpty && p.all fun s => s.config.wellFormed

/-- Each block starts from its own power-on reset (R153). -/
def Platform.powerOn (cs : List Config) : Platform := cs.map State.powerOn

/-- Words offered on port `k` (R42). A port that the platform does not have takes none. -/
def Platform.offerAt (k : Nat) (ws : List OpWord) (p : Platform) : Platform := p.modify k fun s => s.offer ws

/-- One step of the block at port `k`; no block but that one moves (R47). `none` where there is no such port. -/
def Platform.stepAt (k : Nat) (p : Platform) : Option (Host.Outcome Platform Fault Refusal) :=
  match p[k]? with
  | none => none
  | some s =>
    match step s with
    | .next t => some (.next (p.set k t))
    | .fault r => some (.fault r)
    | .refused r => some (.refused r)

end Sys2Proof.Machine
end

