-- ==== Sys2Proof/Safety.lean ====
section
/-!
DEFINITION. What a safe run is, and the invariants the spec states of every reachable state (10_state.md R32,
41_frame_decoder.md R116, R119).
-/

namespace Sys2Proof.Machine

/-- `n` steps from `s` end well: no fault is recorded. A faulted state is never a successful end of a run (R141). -/
abbrev SafeRun (n : Nat) (s : State) : Prop := (trace n s).2.fault = none

/-- The invariant of R32, with what the buffer is: the capacity is legal (R9), the buffer is in canonical form and lists
cells of `0..CAP-1` only (R33), `IDX ≤ LEN ≤ CAP`, `IDX < LEN` while payload is stored, `IDX = LEN` at the checksum. -/
abbrev State.Inv (s : State) : Prop :=
  s.config.wellFormed = true ∧
  Memory.wf s.buf = true ∧
  Memory.within s.config.cap s.buf = true ∧
  s.idx.toNat ≤ s.len.toNat ∧
  s.len.toNat ≤ s.config.cap ∧
  (s.st = .accumulatePayload → s.idx.toNat < s.len.toNat) ∧
  (s.st = .awaitChecksum → s.idx = s.len)

/-- The sum modulo 256 of the current frame's bytes so far: header, length, and the payload bytes stored at `0..IDX-1`
(R116); `none` where one of those cells has no value. -/
def State.frameSum (s : State) : Option Byte :=
  (Memory.take s.buf s.idx.toNat).map fun p => headerMarker + s.len + sumByte p

/-- What `CK` holds inside a frame: the header while the length is awaited (R119), then the sum of the frame's bytes so
far, which stand in the buffer (R116). -/
abbrev State.SumInv (s : State) : Prop :=
  (s.st = .awaitLength → s.ck = headerMarker) ∧
  (s.st = .accumulatePayload → s.frameSum = some s.ck) ∧
  (s.st = .awaitChecksum → s.frameSum = some s.ck)

/-- Two states agree on the CRC unit (R8, R23). -/
abbrev State.SameCrcUnit (s t : State) : Prop := s.crc = t.crc ∧ s.crcv = t.crcv

/-- Two states agree on the frame decoder unit, its capacity included (R8, R23). -/
abbrev State.SameFrameDecoder (s t : State) : Prop :=
  s.config = t.config ∧ s.st = t.st ∧ s.ck = t.ck ∧ s.len = t.len ∧ s.idx = t.idx ∧ s.buf = t.buf

/-- The values R158 gives both units after a reset. Of `CRC` it says nothing: its value is unspecified. -/
abbrev State.UnitsReset (s : State) : Prop :=
  s.crcv = false ∧ s.st = .awaitHeader ∧ s.ck = 0x00#8 ∧ s.len = 0x00#8 ∧ s.idx = 0x00#8 ∧
  ∀ a, Memory.written s.buf a = false

/-- Which of the two units an operation belongs to (R77); `NOP` and `RST` belong to neither alone. -/
inductive OpUnit where
  | crcUnit
  | frameDecoder
  | whole
deriving DecidableEq, Repr

/-- The unit column of R77. -/
def opUnit : Instr → OpUnit
  | .nop => .whole
  | .crcSeed _ => .crcUnit
  | .crcUpd _ => .crcUnit
  | .crcChk _ => .crcUnit
  | .crcRd => .crcUnit
  | .crcRdm => .crcUnit
  | .fdPush _ => .frameDecoder
  | .fdRdb _ => .frameDecoder
  | .fdRd16 _ => .frameDecoder
  | .fdStat => .frameDecoder
  | .rst => .whole

/-- The operations that change no state (R57). -/
def readsOnly : Instr → Bool
  | .nop => true
  | .crcSeed _ => false
  | .crcUpd _ => false
  | .crcChk _ => true
  | .crcRd => true
  | .crcRdm => true
  | .fdPush _ => false
  | .fdRdb _ => true
  | .fdRd16 _ => true
  | .fdStat => true
  | .rst => false

/-- The fault table of R139 for the block `s` and the word `w`, in the order of R145: the fault that issuing `w` records,
if it records one. It is written from the table alone, beside the meanings and not through them. -/
def State.wordFault (s : State) (w : OpWord) : Option FaultRecord :=
  let op := (w.extractLsb' 8 4).toNat
  let o := (w.extractLsb' 0 8).toNat
  if !OpWord.wellFormed w then some (.reservedEncoding w)
  else if [0x2, 0x3, 0x4, 0x5].contains op && !s.crcv then some (.crcUnseeded w)
  else if op = 0x7 && s.config.cap ≤ o then some (.bufRange w o)
  else if op = 0x7 && !Memory.written s.buf o then some (.bufUnwritten w o)
  else if op = 0x8 && s.config.cap ≤ o + 1 then some (.bufRange w o)
  else if op = 0x8 && !Memory.written s.buf o then some (.bufUnwritten w o)
  else if op = 0x8 && !Memory.written s.buf (o + 1) then some (.bufUnwritten w (o + 1))
  else none

/-- Every word with this `OP` is an operation, its operand the whole `DATA` field: its encoding, and what the port does
with it (R75, R76, R77). -/
abbrev DataIsOperand (op : BitVec 4) (f : Byte → Instr) : Prop :=
  ∀ d : Byte, encode (f d) = opWord op d ∧
    ∀ (s : State) (rest : List OpWord), s.port = opWord op d :: rest → step s = exec (f d) { s with port := rest }

/-- The word with this `OP` is the operation `i` where its `DATA` is 0x00, and is reserved where it is not (R80): its
encoding, and what the port does with either. -/
abbrev DataMustBeZero (op : BitVec 4) (i : Instr) : Prop :=
  encode i = opWord op 0x00#8 ∧
  ∀ (s : State) (d : Byte) (rest : List OpWord), s.fault = none → s.port = opWord op d :: rest →
    (d = 0x00#8 → step s = exec i { s with port := rest }) ∧
    (d ≠ 0x00#8 →
      step s = .next { s with port := rest, fault := some (.reservedEncoding (opWord op d)), res := none })

end Sys2Proof.Machine
end

