-- ==== Sys2Proof/Certificates/Slice0/Obligations.lean ====
section
/-!
DEFINITION. The statements about the model, one `def Obligations.<Name> : Prop` each; OBLIGATIONS.json lists them with the
rules they formalise. `s.fault = none` says that the block accepts operations (R40); an equation `exec i s = .next { s with … }` says
the whole next state, so every field and every buffer cell it does not name is unchanged.
-/

open Sys2Proof Sys2Proof.Machine

/-! ## Reset, the command port, and a recorded fault -/

/-- R157, R158, R175: both kinds of reset leave the same values in both units. `CRC` is left unspecified by both. -/
def Obligations.BothResetsLeaveTheSameValues : Prop :=
  (∀ c, (State.powerOn c).UnitsReset ∧ (State.powerOn c).fault = none ∧ (State.powerOn c).config = c) ∧
  (∀ s : State, s.fault = none → ∃ t, exec .rst s = .next t ∧ t.UnitsReset ∧ t.fault = none ∧ t.config = s.config) ∧
  (∀ (s : State) (r : FaultRecord), s.fault = some r → exec .rst s = .fault (.stopped r))

/-- The model's choice (log 4, log 5): the state after reset is the power-on state at the reference capacity, with 0x00 in
`CRC`, no word offered and no result. -/
def Obligations.ResetIsPowerOnAtReferenceCapacity : Prop :=
  State.reset = State.powerOn { cap := 32 } ∧ State.reset.crc = 0x00#8 ∧ State.reset.port = [] ∧ State.reset.res = none

/-- R38: the word at the head of the port is decoded and its operation performed, in one step. -/
def Obligations.StepRunsTheDecodedWord : Prop :=
  ∀ (s : State) (w : OpWord) (rest : List OpWord) (i : Instr),
    s.port = w :: rest → decode w = .instr i → step s = exec i { s with port := rest }

/-- R79, R80: a reserved word changes no state and raises `ReservedEncoding`. -/
def Obligations.ReservedWordRaisesReservedEncoding : Prop :=
  ∀ (s : State) (w : OpWord) (rest : List OpWord),
    s.fault = none → s.port = w :: rest →
    ((0xA#4 ≤ opField w ∧ opField w ≤ 0xE#4) ∨
      ((opField w = 0x0#4 ∨ opField w = 0x4#4 ∨ opField w = 0x5#4 ∨ opField w = 0x9#4 ∨ opField w = 0xF#4) ∧
        dataField w ≠ 0x00#8)) →
    step s = .next { s with port := rest, fault := some (.reservedEncoding w), res := none }

/-- The model's choice (log 1): a step on which no word is offered holds the state and returns no result. -/
def Obligations.IdleStepHoldsTheState : Prop :=
  ∀ s : State, s.fault = none → s.port = [] → step s = .next { s with res := none }

/-- R40, R141: a block with a recorded fault takes no step and accepts no operation, `RST` included. -/
def Obligations.RecordedFaultStopsTheBlock : Prop :=
  ∀ (s : State) (r : FaultRecord), s.fault = some r →
    step s = .fault (.stopped r) ∧ ∀ i, exec i s = .fault (.stopped r)

/-! ## Control operations -/

/-- R134: `NOP` changes no state and returns `RES = 0`, and changes the result of no operation after it. -/
def Obligations.NopChangesNothing : Prop :=
  DataMustBeZero 0x0#4 .nop ∧
  ∀ s : State, s.fault = none →
    exec .nop s = .next { s with res := some 0x00000000#32 } ∧
    ∀ i, exec i { s with res := some 0x00000000#32 } = exec i s

/-- R135: `RST` applies the reset values to both units and returns `RES = 0`; the port and the parameters stay, and `CRC`
holds an unspecified value. A block with a recorded fault does not accept it. -/
def Obligations.RstResetsBothUnits : Prop :=
  DataMustBeZero 0xF#4 .rst ∧
  (∀ s : State, s.fault = none →
    ∃ t, exec .rst s = .next t ∧ t.UnitsReset ∧ t.res = some 0x00000000#32 ∧ t.fault = none ∧
      t.config = s.config ∧ t.port = s.port) ∧
  (∀ (s : State) (r : FaultRecord), s.fault = some r → exec .rst s = .fault (.stopped r))

/-! ## The CRC unit -/

/-- R87: `CRC.SEED s` writes `mirror8(s)`, from any state and for any byte, and raises no fault. -/
def Obligations.CrcSeedWritesTheMirroredByte : Prop :=
  DataIsOperand 0x1#4 .crcSeed ∧
  ∀ (b : Byte) (s : State), s.fault = none →
    exec (.crcSeed b) s = .next { s with crc := mirror8 b, crcv := true, res := some 0x00000000#32 }

/-- R88: `CRC.UPD b` feeds one byte; before any seed it raises `CrcUnseeded`. -/
def Obligations.CrcUpdFeedsOneByte : Prop :=
  DataIsOperand 0x2#4 .crcUpd ∧
  ∀ (b : Byte) (s : State), s.fault = none →
    (s.crcv = true → exec (.crcUpd b) s = .next { s with crc := crcStep s.crc b, res := some 0x00000000#32 }) ∧
    (s.crcv = false →
      exec (.crcUpd b) s = .next { s with fault := some (.crcUnseeded (opWord 0x2#4 b)), res := none })

/-- R89: `CRC.CHK r` compares `mirror8(r)` with the register and feeds nothing; exactly one `r` matches a register. -/
def Obligations.CrcChkComparesTheMirroredByte : Prop :=
  DataIsOperand 0x3#4 .crcChk ∧
  (∀ (r : Byte) (s : State), s.fault = none →
    (s.crcv = true →
      exec (.crcChk r) s =
        .next { s with res := some (if mirror8 r = s.crc then 0x00000001#32 else 0x00000000#32) }) ∧
    (s.crcv = false →
      exec (.crcChk r) s = .next { s with fault := some (.crcUnseeded (opWord 0x3#4 r)), res := none })) ∧
  (∀ c : Byte, ∃ r, ∀ r', mirror8 r' = c ↔ r' = r)

/-- R90: `CRC.RD` returns the register and changes nothing. -/
def Obligations.CrcRdReturnsTheRegister : Prop :=
  DataMustBeZero 0x4#4 .crcRd ∧
  ∀ s : State, s.fault = none →
    (s.crcv = true → exec .crcRd s = .next { s with res := some (s.crc.zeroExtend 32) }) ∧
    (s.crcv = false → exec .crcRd s = .next { s with fault := some (.crcUnseeded 0x400#12), res := none })

/-- R91: `CRC.RDM` returns the register mirrored, which is the byte that `CRC.CHK` matches. -/
def Obligations.CrcRdmReturnsTheMatchingByte : Prop :=
  DataMustBeZero 0x5#4 .crcRdm ∧
  ∀ s : State, s.fault = none →
    (s.crcv = true →
      exec .crcRdm s = .next { s with res := some ((mirror8 s.crc).zeroExtend 32) } ∧
      exec (.crcChk (mirror8 s.crc)) s = .next { s with res := some 0x00000001#32 }) ∧
    (s.crcv = false → exec .crcRdm s = .next { s with fault := some (.crcUnseeded 0x500#12), res := none })

/-- R18, R72: bit `i` of `mirror8(b)` is bit `7 - i` of `b`, and `mirror8` is its own inverse. -/
def Obligations.MirrorReversesTheBits : Prop :=
  ∀ b : Byte, (∀ i, i < 8 → (mirror8 b).getLsbD i = b.getLsbD (7 - i)) ∧ mirror8 (mirror8 b) = b

/-- R92: one step of the bit loop is one lookup in the table `T` of V6, indexed by `c XOR b`. -/
def Obligations.CrcStepIsOneTableLookup : Prop :=
  ∀ c b : Byte, crcStep c b = crcStep 0x00#8 (c ^^^ b) ∧ crcStep c b = crcTableStep c b

/-- R95: a byte cancels a register exactly when it equals it, so a checksum matches exactly when feeding its mirror would
leave zero. -/
def Obligations.FeedingLeavesZeroExactlyOnTheRegister : Prop :=
  (∀ c b : Byte, crcStep c b = 0x00#8 ↔ b = c) ∧
  (∀ (s : State) (r : Byte), s.fault = none → s.crcv = true →
    (exec (.crcChk r) s = .next { s with res := some 0x00000001#32 } ↔
      exec (.crcUpd (mirror8 r)) s = .next { s with crc := 0x00#8, res := some 0x00000000#32 }))

/-- R96: `crc_step` is linear, zero bytes leave a zero register, and two sequences that differ in one byte give
different registers. -/
def Obligations.CrcIsLinearAndDetectsOneChangedByte : Prop :=
  (∀ c₁ c₂ b₁ b₂ : Byte, crcStep (c₁ ^^^ c₂) (b₁ ^^^ b₂) = crcStep c₁ b₁ ^^^ crcStep c₂ b₂) ∧
  (∀ n, crcOf 0x00#8 (List.replicate n 0x00#8) = 0x00#8) ∧
  (∀ (c b b' : Byte) (before after : List Byte), b ≠ b' →
    crcOf c (before ++ b :: after) ≠ crcOf c (before ++ b' :: after))

/-- R93: seeding with `s` and feeding `b1, ..., bn` leaves in `CRC` the table-driven CRC-8 of the bytes from `mirror8(s)`,
and every operation of the sequence completes. -/
def Obligations.FedBytesGiveTheTableDrivenCrc : Prop :=
  ∀ (seed : Byte) (bs : List Byte) (s : State), s.fault = none →
    issue (.crcSeed seed :: bs.map .crcUpd) s =
      (List.replicate (bs.length + 1) 0x00000000#32,
        { s with crc := crcByTable (mirror8 seed) bs, crcv := true, res := some 0x00000000#32 })

/-- R94: the mirrored register is the reflected CRC-8 of the mirrored bytes. -/
def Obligations.MirroredRegisterIsTheReflectedCrc : Prop :=
  ∀ (seed : Byte) (bs : List Byte) (s : State), s.fault = none →
    ∃ c, (issue (.crcSeed seed :: bs.map .crcUpd) s).2 = { s with crc := c, crcv := true, res := some 0x00000000#32 } ∧
      mirror8 c = crcReflected seed (bs.map mirror8)

/-- R98: only `CRC.SEED`, `CRC.UPD` and `RST` write the CRC unit's state. -/
def Obligations.OnlySeedUpdRstWriteTheCrcUnit : Prop :=
  ∀ (i : Instr) (s t : State), exec i s = .next t → ¬ s.SameCrcUnit t →
    (∃ b, i = .crcSeed b) ∨ (∃ b, i = .crcUpd b) ∨ i = .rst

/-! ## The frame decoder: one byte -/

/-- R108: in `AWAIT_HEADER` every byte seeds `CK` and is tried as a header. -/
def Obligations.PushInAwaitHeader : Prop :=
  ∀ (b : Byte) (s : State), s.fault = none → s.st = .awaitHeader →
    exec (.fdPush b) s =
      .next { s with
        ck := b
        st := if b = 0x16#8 then .awaitLength else .awaitHeader
        res := some 0x00000000#32 }

/-- R109: in `AWAIT_LENGTH` a length within capacity is accepted, and a longer one is the overflow. -/
def Obligations.PushInAwaitLength : Prop :=
  ∀ (b : Byte) (s : State), s.fault = none → s.st = .awaitLength →
    (b.toNat ≤ s.config.cap →
      exec (.fdPush b) s =
        .next { s with
          ck := s.ck + b
          len := b
          idx := 0x00#8
          st := if b = 0x00#8 then .awaitChecksum else .accumulatePayload
          res := some 0x00000000#32 }) ∧
    (s.config.cap < b.toNat →
      exec (.fdPush b) s = .next { s with ck := s.ck + b, st := .awaitHeader, res := some 0x00000004#32 })

/-- R110: in `ACCUMULATE_PAYLOAD` the byte is stored at `IDX` and the index advances; the frame's last payload byte moves to
`AWAIT_CHECKSUM`. `BUF` is read cell by cell: the cell at `IDX` holds the byte, every other cell what it held. -/
def Obligations.PushInAccumulatePayload : Prop :=
  ∀ (b : Byte) (s : State), s.fault = none → s.st = .accumulatePayload →
    ∃ m : Memory,
      exec (.fdPush b) s =
        .next { s with
          ck := s.ck + b
          buf := m
          idx := s.idx + 1#8
          st := if s.idx + 1#8 = s.len then .awaitChecksum else .accumulatePayload
          res := some 0x00000000#32 } ∧
      (s.idx.toNat < s.config.cap → Memory.read m s.idx.toNat = some b ∧ Memory.written m s.idx.toNat = true) ∧
      ∀ a, a ≠ s.idx.toNat → Memory.read m a = Memory.read s.buf a

/-- R111: in `AWAIT_CHECKSUM` the frame completes whatever the byte, and it is valid when the sum is zero. -/
def Obligations.PushInAwaitChecksum : Prop :=
  ∀ (b : Byte) (s : State), s.fault = none → s.st = .awaitChecksum →
    exec (.fdPush b) s =
      .next { s with
        ck := s.ck + b
        st := .awaitHeader
        res := some (if s.ck + b = 0x00#8 then 0x00000003#32 else 0x00000001#32) }

/-- R44, R146: `FD.PUSH` raises no fault, for any byte in any state, and reports at most one of nothing, an overflow, and a
completed frame; its word carries the byte (R107). -/
def Obligations.PushNeverFaultsAndReportsOneOutcome : Prop :=
  DataIsOperand 0x6#4 .fdPush ∧
  ∀ (b : Byte) (s : State), s.fault = none →
    ∃ t v, exec (.fdPush b) s = .next t ∧ t.fault = none ∧ t.res = some v ∧
      (v = 0x00000000#32 ∨ v = 0x00000001#32 ∨ v = 0x00000003#32 ∨ v = 0x00000004#32) ∧
      (resDone v = true ↔ s.st = .awaitChecksum) ∧
      (resOvf v = true ↔ s.st = .awaitLength ∧ s.config.cap < b.toNat)

/-- R118: no `FD.PUSH` writes a cell at or above the capacity, and a length byte over the capacity writes no cell at all and
returns the decoder to the header-seeking state. Over states that break R32 the first clause is the model's choice (log 8): a
payload write at an `IDX` of the capacity or more is discarded. -/
def Obligations.PushNeverWritesPastCapacity : Prop :=
  ∀ (b : Byte) (s t : State), exec (.fdPush b) s = .next t →
    (∀ a, s.config.cap ≤ a → Memory.read t.buf a = Memory.read s.buf a) ∧
    (s.st = .awaitLength → s.config.cap < b.toNat → t.buf = s.buf ∧ t.st = .awaitHeader)

/-- R33: only `FD.PUSH` in `ACCUMULATE_PAYLOAD` writes the buffer, and only cell `IDX`; `RST` is the only other operation
after which a cell reads differently. That the cell is below the capacity is, over states that break R32, the model's choice
(log 8): a write at or above the capacity is discarded. -/
def Obligations.OnlyPushWritesTheBufferAndOnlyAtIdx : Prop :=
  ∀ (i : Instr) (s t : State) (a : Nat), exec i s = .next t → Memory.read t.buf a ≠ Memory.read s.buf a →
    i = .rst ∨ ∃ b, i = .fdPush b ∧ s.st = .accumulatePayload ∧ a = s.idx.toNat ∧ a < s.config.cap ∧
      Memory.read t.buf a = some b

/-! ## The frame decoder: reads -/

/-- R113: `FD.RDB o` returns what the cell last held, and changes nothing; outside the capacity, or on a cell that was never
written, it records the fault. -/
def Obligations.FdRdbReturnsTheCell : Prop :=
  DataIsOperand 0x7#4 .fdRdb ∧
  ∀ (o : Byte) (s : State), s.fault = none →
    (s.config.cap ≤ o.toNat →
      exec (.fdRdb o) s = .next { s with fault := some (.bufRange (opWord 0x7#4 o) o.toNat), res := none }) ∧
    (o.toNat < s.config.cap → Memory.read s.buf o.toNat = none →
      exec (.fdRdb o) s = .next { s with fault := some (.bufUnwritten (opWord 0x7#4 o) o.toNat), res := none }) ∧
    (∀ v, o.toNat < s.config.cap → Memory.read s.buf o.toNat = some v →
      exec (.fdRdb o) s = .next { s with res := some (v.zeroExtend 32) })

/-- R114, R145: `FD.RD16 o` returns the big-endian field of cells `o` and `o + 1`, and changes nothing; it checks the range
first, then cell `o`, then cell `o + 1`, and `o + 1` does not wrap. -/
def Obligations.FdRd16ReturnsTheBigEndianField : Prop :=
  DataIsOperand 0x8#4 .fdRd16 ∧
  ∀ (o : Byte) (s : State), s.fault = none →
    (s.config.cap ≤ o.toNat + 1 →
      exec (.fdRd16 o) s = .next { s with fault := some (.bufRange (opWord 0x8#4 o) o.toNat), res := none }) ∧
    (o.toNat + 1 < s.config.cap → Memory.read s.buf o.toNat = none →
      exec (.fdRd16 o) s = .next { s with fault := some (.bufUnwritten (opWord 0x8#4 o) o.toNat), res := none }) ∧
    (∀ hi, o.toNat + 1 < s.config.cap → Memory.read s.buf o.toNat = some hi → Memory.read s.buf (o.toNat + 1) = none →
      exec (.fdRd16 o) s =
        .next { s with fault := some (.bufUnwritten (opWord 0x8#4 o) (o.toNat + 1)), res := none }) ∧
    (∀ hi lo, o.toNat + 1 < s.config.cap →
      Memory.read s.buf o.toNat = some hi → Memory.read s.buf (o.toNat + 1) = some lo →
      ∃ v : Res, exec (.fdRd16 o) s = .next { s with res := some v } ∧ v.toNat = hi.toNat * 256 + lo.toNat)

/-- R53: `FD.RD16 o` returns a field exactly when `FD.RDB o` and `FD.RDB (o+1)` both return bytes, and returns those two. -/
def Obligations.FieldIsItsTwoBytes : Prop :=
  ∀ (o : Byte) (s : State) (v : Res), s.fault = none → o.toNat < 255 →
    (exec (.fdRd16 o) s = .next { s with res := some v } ↔
      ∃ hi lo : Byte, exec (.fdRdb o) s = .next { s with res := some (hi.zeroExtend 32) } ∧
        exec (.fdRdb (o + 1#8)) s = .next { s with res := some (lo.zeroExtend 32) } ∧
        v.toNat = hi.toNat * 256 + lo.toNat)

/-- R115: `FD.STAT` returns `IDX`, `LEN`, `CK`, six zero bits and the code of `ST`, and changes nothing. -/
def Obligations.FdStatReturnsTheDecoderRegisters : Prop :=
  DataMustBeZero 0x9#4 .fdStat ∧
  ∀ s : State, s.fault = none →
    ∃ v : Res, exec .fdStat s = .next { s with res := some v } ∧
      v.extractLsb' 24 8 = s.idx ∧ v.extractLsb' 16 8 = s.len ∧ v.extractLsb' 8 8 = s.ck ∧ v.extractLsb' 2 6 = 0#6 ∧
      v.extractLsb' 0 2 =
        (match s.st with
          | .awaitHeader => 0b00#2
          | .awaitLength => 0b01#2
          | .accumulatePayload => 0b10#2
          | .awaitChecksum => 0b11#2)

/-! ## All operations -/

/-- R139, R141, R145, R174: a word issued on a block that accepts operations completes in its step; it records exactly the
fault of the fault table, and then nothing else is written and no `RES` returned; otherwise it returns a `RES`. -/
def Obligations.FaultsAreExactlyTheFaultTable : Prop :=
  ∀ (s : State) (w : OpWord) (rest : List OpWord), s.fault = none → s.port = w :: rest →
    ∃ t, step s = .next t ∧ t.fault = s.wordFault w ∧ t.port = rest ∧
      (t.fault ≠ none → t = { s with port := rest, fault := t.fault, res := none }) ∧
      (t.fault = none → ∃ v, t.res = some v)

/-- R57: the read operations and `NOP` change no state, and issued twice in a row return the same result both times. -/
def Obligations.ReadsChangeNothingAndRepeat : Prop :=
  ∀ (i : Instr) (s t : State), readsOnly i = true → exec i s = .next t →
    t = { s with fault := t.fault, res := t.res } ∧
    (t.fault = none → exec i t = .next t) ∧
    (∀ r, t.fault = some r → exec i t = .fault (.stopped r))

/-- R8: an operation of one unit neither writes the other unit's state nor reads it: its effect and its result are the same
whatever the other unit holds. -/
def Obligations.UnitsShareNoState : Prop :=
  ∀ (i : Instr) (s t : State), exec i s = .next t →
    (opUnit i = .crcUnit → s.SameFrameDecoder t ∧
      ∀ s' : State, s'.fault = s.fault → s.SameCrcUnit s' →
        ∃ t', exec i s' = .next t' ∧ t.SameCrcUnit t' ∧ t'.res = t.res ∧ t'.fault = t.fault) ∧
    (opUnit i = .frameDecoder → s.SameCrcUnit t ∧
      ∀ s' : State, s'.fault = s.fault → s.SameFrameDecoder s' →
        ∃ t', exec i s' = .next t' ∧ t.SameFrameDecoder t' ∧ t'.res = t.res ∧ t'.fault = t.fault)

/-- R41: an operation of the CRC unit and one of the frame decoder, neither of which faults, give the same results and leave
the same state in either order. -/
def Obligations.UnitsInterleaveInAnyOrder : Prop :=
  ∀ (i j : Instr) (s : State) (a b : Res), opUnit i = .crcUnit → opUnit j = .frameDecoder →
    (issue [i, j] s).1 = [a, b] →
    (issue [j, i] s).1 = [b, a] ∧
    { (issue [j, i] s).2 with res := none } = { (issue [i, j] s).2 with res := none }

/-- R36, R9: no step changes the parameters the block was built with. -/
def Obligations.NoStepChangesTheCapacity : Prop :=
  ∀ s t : State, step s = .next t → t.config = s.config

/-! ## Encodings -/

/-- R77, R82, R86: decoding and encoding agree in both directions, for every operation and every operand: a word decodes to
an operation exactly when it is that operation's word. -/
def Obligations.DecodeAndEncodeAgree : Prop :=
  ∀ (w : OpWord) (i : Instr), decode w = .instr i ↔ encode i = w

/-- R79, R80, R82: a word is reserved exactly when its `OP` is 0xA to 0xE, or its `DATA` must be zero and is not; of the 4096
words, 1541 are operations and 2555 reserved. -/
def Obligations.ReservedWordsAreExactlyThose : Prop :=
  (∀ w : OpWord, (∃ why, decode w = .reserved why) ↔
    ((0xA ≤ w.toNat / 256 ∧ w.toNat / 256 ≤ 0xE) ∨
      (w.toNat / 256 ∈ [0x0, 0x4, 0x5, 0x9, 0xF] ∧ w.toNat % 256 ≠ 0))) ∧
  ((List.range 4096).filter fun n => (decodeTableWord 12 n).isSome).length = 1536 + 5 ∧
  ((List.range 4096).filter fun n => !(decodeTableWord 12 n).isSome).length = 2555

/-- R86: a word selects exactly the opcode table's row of the operation it decodes to, and no row when it is reserved. -/
def Obligations.EachWordSelectsItsTableRow : Prop :=
  ∀ w : OpWord, (opcodeTable.filter fun r => r.selects w).map OpcodeRow.mnemonic =
    (match decode w with
      | .instr i => [i.mnemonic]
      | .reserved _ => [])

/-- R77: words written out from the opcode map decode to the operations they stand for. -/
def Obligations.OpcodeMapWordsDecode : Prop :=
  decode 0b000000000000#12 = .instr .nop ∧
  decode 0b000100000001#12 = .instr (.crcSeed 0x01#8) ∧
  decode 0b001000000011#12 = .instr (.crcUpd 0x03#8) ∧
  decode 0b001111011010#12 = .instr (.crcChk 0xDA#8) ∧
  decode 0b010000000000#12 = .instr .crcRd ∧
  decode 0b010100000000#12 = .instr .crcRdm ∧
  decode 0b011000010110#12 = .instr (.fdPush 0x16#8) ∧
  decode 0b011100000100#12 = .instr (.fdRdb 0x04#8) ∧
  decode 0b100000000011#12 = .instr (.fdRd16 0x03#8) ∧
  decode 0b100100000000#12 = .instr .fdStat ∧
  decode 0b111100000000#12 = .instr .rst

/-! ## Invariants of every step -/

/-- R32: every step keeps `IDX ≤ LEN ≤ CAP` and its refinements, with the buffer canonical and within the capacity. -/
def Obligations.EveryStepKeepsTheDecoderInvariant : Prop :=
  ∀ s t : State, s.Inv → step s = .next t → t.Inv

/-- R116, R119: every step keeps `CK` the sum of the current frame's bytes so far. -/
def Obligations.EveryStepKeepsTheFrameSum : Prop :=
  ∀ s t : State, s.Inv → s.SumInv → step s = .next t → t.SumInv

/-- R159: the reset state satisfies both invariants, at every legal capacity, and `FD.STAT` then returns zero. -/
def Obligations.PowerOnSatisfiesTheInvariants : Prop :=
  ∀ c : Config, c.wellFormed = true →
    (State.powerOn c).Inv ∧ (State.powerOn c).SumInv ∧
    exec .fdStat (State.powerOn c) = .next { State.powerOn c with res := some 0x00000000#32 }

/-! ## Frames and streams -/

/-- R67: exactly one checksum byte makes a frame valid, the one the rule gives. -/
def Obligations.ExactlyOneChecksumByteIsValid : Prop :=
  ∀ (p : List Byte) (c : Byte), Frame.valid { payload := p, checksum := c } = true ↔ c = checksumFor p

/-- R116, R117, R121: a frame within the capacity, pushed to a decoder in `AWAIT_HEADER`: no push before its checksum byte
reports anything; the checksum byte completes it, with `OK` exactly when the frame is valid; afterwards the buffer holds its
payload, every later cell is as before, and the decoder seeks a header. -/
def Obligations.FrameFromAwaitHeaderIsDecoded : Prop :=
  ∀ (f : Frame) (s : State), s.fault = none → s.st = .awaitHeader → f.fits s.config.cap = true →
    ∃ t, pushAll f.bytes s =
        (List.replicate (f.payload.length + 2) 0x00000000#32 ++ [if f.valid then 0x00000003#32 else 0x00000001#32], t) ∧
      t.fault = none ∧ t.st = .awaitHeader ∧ Memory.take t.buf f.payload.length = some f.payload ∧
      (∀ a, f.payload.length ≤ a → Memory.read t.buf a = Memory.read s.buf a)

/-- R68, R109: the header and an oversized length leave the decoder in `AWAIT_HEADER` with the overflow reported and no cell
written, so what follows is scanned for a header. -/
def Obligations.OversizedFrameIsDiscardedAtItsLength : Prop :=
  ∀ (n : Byte) (s : State), s.fault = none → s.st = .awaitHeader → s.config.cap < n.toNat →
    ∃ t, pushAll [0x16#8, n] s = ([0x00000000#32, 0x00000004#32], t) ∧
      t.fault = none ∧ t.st = .awaitHeader ∧ t.buf = s.buf ∧ t.len = s.len ∧ t.idx = s.idx

/-- R120, its second sentence: `CAP + 2` bytes none of which is 0x16 leave the decoder in `AWAIT_HEADER`, from any state that
satisfies the invariant; and from any such state but `AWAIT_HEADER` itself, any `CAP + 2` bytes pass through `AWAIT_HEADER`. The
second clause is R120's first sentence without `AWAIT_HEADER`, from which that sentence fails (log 13). -/
def Obligations.CapacityPlusTwoPushesReturnToHeader : Prop :=
  ∀ (s : State) (bs : List Byte), s.fault = none → s.Inv → bs.length = s.config.cap + 2 →
    ((∀ b ∈ bs, b ≠ 0x16#8) → (pushAll bs s).2.st = .awaitHeader) ∧
    (s.st ≠ .awaitHeader → ∃ k, 1 ≤ k ∧ k ≤ bs.length ∧ (pushAll (bs.take k) s).2.st = .awaitHeader)

/-- R120, its first sentence as it stands, over states that satisfy the invariant. Expected to FAIL (log 13): a decoder in
`AWAIT_HEADER` that is pushed a header, the length `CAP` and `CAP` payload bytes has made `CAP + 2` pushes, and was not in
`AWAIT_HEADER` after any of them. -/
def Obligations.AnyCapacityPlusTwoPushesPassThroughHeader : Prop :=
  ∀ (s : State) (bs : List Byte), s.fault = none → s.Inv → bs.length = s.config.cap + 2 →
    ∃ k, 1 ≤ k ∧ k ≤ bs.length ∧ (pushAll (bs.take k) s).2.st = .awaitHeader

/-- R122: nothing that came before a return to `AWAIT_HEADER` affects later decoding: two decoders of one capacity, both in
`AWAIT_HEADER`, report the same for every byte sequence and end in the same decoder state. -/
def Obligations.NothingBeforeAwaitHeaderAffectsDecoding : Prop :=
  ∀ (bs : List Byte) (s s' : State), s.fault = none → s'.fault = none →
    s.st = .awaitHeader → s'.st = .awaitHeader → s.config = s'.config →
    (pushAll bs s).1 = (pushAll bs s').1 ∧ (pushAll bs s).2.st = (pushAll bs s').2.st

/-! ## Runs, consumers and platforms -/

/-- R19, R38, R137: the operations whose words wait on the port, run by the machine's steps, show the results and reach the
state of the same operations issued one after another. That words wait on the port in a queue is the model's choice (log 1). -/
def Obligations.StepsRunTheOfferedOperations : Prop :=
  ∀ (is : List Instr) (rest : List OpWord) (s : State), s.fault = none → s.port = is.map encode ++ rest →
    (issue is s).2.fault = none →
    trace is.length s = ((issue is s).1, { (issue is s).2 with port := rest }) ∧
    (issue is s).1.length = is.length

/-- R99, R51: a transaction that the peripheral answers completes from any state that accepts operations; it succeeds with the
raw code `{hi, lo}` exactly when the received checksum mirrored is the CRC-8 of command, high and low byte. -/
def Obligations.TransactionSucceedsExactlyOnItsChecksum : Prop :=
  ∀ (cmd : Byte) (x : Received) (s : State), s.fault = none →
    (issue (Pseudo.crcTxn cmd x.hi x.lo x.check).expand s).1.length = 5 ∧
    (transact cmd (.bytes x) s).1 =
      (if mirror8 x.check = crcByTable 0x00#8 [cmd, x.hi, x.lo] then .success (x.hi ++ x.lo) else .crcError) ∧
    (transact cmd (.bytes x) s).2.crc = crcByTable 0x00#8 [cmd, x.hi, x.lo] ∧
    s.SameFrameDecoder (transact cmd (.bytes x) s).2 ∧ (transact cmd (.bytes x) s).2.fault = none

/-- R100: a transaction whose command is not acknowledged, or whose ready-poll times out, fails so after its `CRC.UPD` of the
command: the command byte was fed, no byte after it and no compare. Whatever a transaction leaves in `CRC`, nothing reads it
before the next seed: the transaction after it ends the same and leaves the same block. -/
def Obligations.FailedTransactionStopsAfterItsCommand : Prop :=
  (∀ (cmd : Byte) (s : State), s.fault = none →
    transact cmd .noAcknowledge s =
      (.noAcknowledge, { s with crc := crcByTable 0x00#8 [cmd], crcv := true, res := some 0x00000000#32 }) ∧
    transact cmd .timeout s =
      (.timeout, { s with crc := crcByTable 0x00#8 [cmd], crcv := true, res := some 0x00000000#32 })) ∧
  (∀ (cmd : Byte) (a : BusAnswer) (s : State) (c : Byte) (v : Bool), s.fault = none →
    transact cmd a { s with crc := c, crcv := v } = transact cmd a s)

/-- R104, R100: a measurement cycle updates the latest reading exactly when both transactions are answered and match; a missing
acknowledge, a timeout or a CRC error in either leaves it, and in the temperature transaction ends the cycle there. -/
def Obligations.MeasurementCycleNeedsBothTransactions : Prop :=
  ∀ (temp hum : BusAnswer) (x : Session), x.block.fault = none →
    (Session.measure temp hum x).block.fault = none ∧
    (Session.measure temp hum x).latest =
      (match temp, hum with
        | .bytes t, .bytes h =>
          if mirror8 t.check = crcByTable 0x00#8 [Config.cmdTemp, t.hi, t.lo] ∧
              mirror8 h.check = crcByTable 0x00#8 [Config.cmdHum, h.hi, h.lo]
            then some { temperature := t.hi ++ t.lo, humidity := h.hi ++ h.lo }
            else x.latest
        | _, _ => x.latest) ∧
    ((∀ raw, (transact Config.cmdTemp temp x.block).1 ≠ .success raw) →
      (Session.measure temp hum x).block = (transact Config.cmdTemp temp x.block).2)

/-- R102: the bus recovery sequence leaves `T[CMD_SOFTRESET]` in `CRC`, from any state that accepts operations. -/
def Obligations.BusRecoveryLeavesTheSoftResetCrc : Prop :=
  ∀ s : State, s.fault = none →
    issue busRecovery s =
      ([0x00000000#32, 0x00000000#32],
        { s with crc := crcTable.getD Config.cmdSoftReset.toNat 0x00#8, crcv := true, res := some 0x00000000#32 })

/-- R71, R128: at every legal capacity the reader, fed the reference datagram from power-on, publishes PM2.5 = 1000,
PM1 = 2000 and PM10 = 3000. -/
def Obligations.ReferenceDatagramPublishesItsFields : Prop :=
  ∀ c : Config, c.wellFormed = true →
    (Reader.feedAll { block := State.powerOn c, published := none } referenceFrame.bytes).published =
      some { pm25 := 1000#16, pm1 := 2000#16, pm10 := 3000#16 }

/-- R127: a push that does not complete a valid frame publishes nothing, and the last published reading stays. -/
def Obligations.OnlyValidFramesArePublished : Prop :=
  ∀ (r : Reader) (b : Byte) (v : Res), (issue [.fdPush b] r.block).1 = [v] →
    (resDone v = false ∨ resOk v = false) → (Reader.feed r b).published = r.published

/-- R47, R153: a step of the block at one port leaves the block at every other port as it was. -/
def Obligations.BlocksOfAPlatformAreIndependent : Prop :=
  ∀ (p q : Platform) (k : Nat), Platform.stepAt k p = some (.next q) →
    q.length = p.length ∧ (∀ j, j ≠ k → q[j]? = p[j]?) ∧
    ∃ s t, p[k]? = some s ∧ step s = .next t ∧ q[k]? = some t
end

