-- ==== Sys2Proof/Laws/Bits.lean ====
section
/-!
SUPPORT. The small laws of the bit functions of 00_scope.md R18 and of the modulo sum of R16.
-/

namespace Sys2Proof.Laws

open Sys2Proof.Machine

/-- One round is linear over exclusive or. -/
theorem crcRound_xor (c v c' v' : Byte) :
    crcRound (c ^^^ c') (v ^^^ v') = crcRound c v ^^^ crcRound c' v' := by
  have e : ((c ^^^ c') ^^^ (v ^^^ v')).getLsbD 7 = xor ((c ^^^ v).getLsbD 7) ((c' ^^^ v').getLsbD 7) := by
    simp only [BitVec.getLsbD_xor]
    cases c.getLsbD 7 <;> cases c'.getLsbD 7 <;> cases v.getLsbD 7 <;> cases v'.getLsbD 7 <;> rfl
  have sh : (c ^^^ c') <<< 1 = (c <<< 1) ^^^ (c' <<< 1) := BitVec.shiftLeft_xor_distrib ..
  unfold crcRound
  rw [e, sh]
  cases (c ^^^ v).getLsbD 7 <;> cases (c' ^^^ v').getLsbD 7 <;> simp only [Bool.xor_false, Bool.xor_true, Bool.not_true,
    Bool.not_false, if_true, if_false, Bool.false_eq_true]
  · ac_rfl
  · ac_rfl
  · rw [show ((c <<< 1) ^^^ crcPoly) ^^^ ((c' <<< 1) ^^^ crcPoly) =
        ((c <<< 1) ^^^ (c' <<< 1)) ^^^ (crcPoly ^^^ crcPoly) by ac_rfl, BitVec.xor_self, BitVec.xor_zero]

/-- A round moves nothing out of a zero register fed a zero bit. -/
theorem crcRound_zero (v : Byte) (h : v.getLsbD 7 = false) : crcRound 0x00#8 v = 0x00#8 := by
  unfold crcRound
  rw [BitVec.zero_xor, h]
  rfl

theorem sumByte_append (p q : List Byte) : sumByte (p ++ q) = sumByte p + sumByte q := by
  induction p with
  | nil => simp [sumByte]
  | cons x p ih => simp only [List.cons_append, sumByte, ih, BitVec.add_assoc]

theorem sumInt_append (p q : List Byte) : sumInt (p ++ q) = sumInt p + sumInt q := by
  induction p with
  | nil => simp [sumInt]
  | cons x p ih => simp only [List.cons_append, sumInt, ih, Nat.add_assoc]

/-- The sum modulo 256 is the exact sum, narrowed (R16). -/
theorem toNat_sumByte (p : List Byte) : (sumByte p).toNat = sumInt p % 256 := by
  induction p with
  | nil => rfl
  | cons x p ih =>
    simp only [sumByte, sumInt, BitVec.toNat_add, ih]
    omega

end Sys2Proof.Laws
end

