-- ==== Sys2Proof/Laws/Decode.lean ====
section
/-!
SUPPORT. The two fields of an operation word (30_encoding.md R75): a word is its fields, and the fields of a word built from
two are those two.
-/

namespace Sys2Proof.Laws

theorem toNat_opWord (op : BitVec 4) (d : Byte) : (opWord op d).toNat = op.toNat * 256 + d.toNat := by
  simp only [opWord, BitVec.toNat_append, Nat.shiftLeft_eq]
  rw [Nat.mul_comm, ← Nat.two_pow_add_eq_or_of_lt d.isLt]

theorem toNat_opField (w : OpWord) : (opField w).toNat = w.toNat / 256 := by
  have := w.isLt
  simp [opField, BitVec.extractLsb'_toNat, Nat.shiftRight_eq_div_pow]
  omega

theorem toNat_dataField (w : OpWord) : (dataField w).toNat = w.toNat % 256 := by
  simp [dataField, BitVec.extractLsb'_toNat]

@[simp] theorem opField_opWord (op : BitVec 4) (d : Byte) : opField (opWord op d) = op := by
  have := d.isLt
  apply BitVec.eq_of_toNat_eq
  rw [toNat_opField, toNat_opWord]
  omega

@[simp] theorem dataField_opWord (op : BitVec 4) (d : Byte) : dataField (opWord op d) = d := by
  have := d.isLt
  apply BitVec.eq_of_toNat_eq
  rw [toNat_dataField, toNat_opWord]
  omega

theorem opWord_fields (w : OpWord) : opWord (opField w) (dataField w) = w := by
  apply BitVec.eq_of_toNat_eq
  rw [toNat_opWord, toNat_dataField, toNat_opField]
  omega

/-- What `decodeMustBeZero` can answer (R80). -/
theorem decodeMustBeZero_cases (i : Instr) (op : BitVec 4) (d : Byte) :
    (d = 0x00#8 ∧ decodeMustBeZero i op d = .instr i) ∨
      (d ≠ 0x00#8 ∧ decodeMustBeZero i op d = .reserved (.dataNotZero op d)) := by
  by_cases h : d = 0x00#8 <;> simp [decodeMustBeZero, h]

end Sys2Proof.Laws
end

