-- ==== Sys2Proof/Laws/Memory.lean ====
section
/-!
SUPPORT. The laws of the payload buffer: a read after a write, what a write leaves alone, the canonical form and the
capacity bound kept by every buffer operation, and equal contents are equal data.
-/

namespace Sys2Proof.Laws

open Sys2Proof.Machine

/-! ## Reads -/

@[simp] theorem read_empty (a : Nat) : Memory.read [] a = none := rfl

@[simp] theorem written_empty (a : Nat) : Memory.written [] a = false := rfl

theorem read_insert (m : Memory) (a a' : Nat) (b : Byte) :
    Memory.read (Memory.insert m a b) a' = if a' = a then some b else Memory.read m a' := by
  induction m with
  | nil => simp only [Memory.insert, Memory.read, eq_comm (a := a)]
  | cons c m ih =>
    obtain ⟨k, v⟩ := c
    simp only [Memory.insert]
    split
    · simp only [Memory.read, eq_comm (a := a)]
    · split
      · rename_i h
        subst h
        simp only [Memory.read, eq_comm (a := a)]
        split <;> rfl
      · rename_i h
        simp only [Memory.read, ih]
        by_cases hk : k = a'
        · subst hk
          simp [Ne.symm h]
        · simp [hk]

/-- A read after a write: the written cell holds the byte, every other cell what it held. -/
theorem read_write (cap : Nat) (m : Memory) (a a' : Nat) (b : Byte) :
    Memory.read (Memory.write cap m a b) a' = if a' = a ∧ a < cap then some b else Memory.read m a' := by
  unfold Memory.write
  by_cases h : a < cap
  · rw [if_pos h, read_insert]
    simp only [h, and_true]
  · rw [if_neg h, if_neg (fun hh => h hh.2)]

theorem written_write (cap : Nat) (m : Memory) (a a' : Nat) (b : Byte) :
    Memory.written (Memory.write cap m a b) a' = (decide (a' = a ∧ a < cap) || Memory.written m a') := by
  unfold Memory.written
  rw [read_write]
  split <;> simp_all

/-- A write at or above the capacity is discarded (log 8). -/
theorem write_out {cap : Nat} {m : Memory} {a : Nat} {b : Byte} (h : cap ≤ a) : Memory.write cap m a b = m := by
  rw [Memory.write, if_neg (Nat.not_lt.2 h)]

/-- The first `n` cells do not see a write at or above `n`. -/
theorem take_write_of_le {cap : Nat} {m : Memory} {a n : Nat} {b : Byte} (h : n ≤ a) :
    Memory.take (Memory.write cap m a b) n = Memory.take m n := by
  induction n with
  | zero => rfl
  | succ n ih =>
    simp only [Memory.take, ih (by omega), read_write]
    rw [if_neg (by omega)]

/-- Writing cell `n` appends to the first `n` cells. -/
theorem take_write_next {cap : Nat} {m : Memory} {n : Nat} {b : Byte} {bs : List Byte} (hn : n < cap)
    (h : Memory.take m n = some bs) : Memory.take (Memory.write cap m n b) (n + 1) = some (bs ++ [b]) := by
  simp only [Memory.take, take_write_of_le (Nat.le_refl n), h, read_write]
  rw [if_pos ⟨trivial, hn⟩]

/-! ## The canonical form -/

theorem wf_cons {c : Host.Cell} {m : Memory} :
    Memory.wf (c :: m) = true ↔ (∀ d ∈ m.head?, c.1 < d.1) ∧ Memory.wf m = true := by
  cases m with
  | nil => simp [Memory.wf]
  | cons d m => simp [Memory.wf]

theorem insert_wf (m : Memory) (a : Nat) (b : Byte) (h : Memory.wf m = true) :
    Memory.wf (Memory.insert m a b) = true ∧
      ∀ k, (∀ c ∈ m.head?, k < c.1) → k < a → ∀ c ∈ (Memory.insert m a b).head?, k < c.1 := by
  induction m with
  | nil => simp [Memory.insert, Memory.wf]
  | cons c m ih =>
    obtain ⟨k, v⟩ := c
    obtain ⟨hd, hm⟩ := wf_cons.1 h
    simp only [Memory.insert]
    split
    · rename_i hk
      exact ⟨wf_cons.2 ⟨by simpa using hk, h⟩, by simp⟩
    · split
      · rename_i hk
        subst hk
        exact ⟨wf_cons.2 ⟨hd, hm⟩, by simp⟩
      · obtain ⟨i1, i2⟩ := ih hm
        exact ⟨wf_cons.2 ⟨i2 k hd (by omega), i1⟩, by simp; tauto⟩

/-- Every write keeps the canonical form. -/
theorem write_wf {cap : Nat} {m : Memory} {a : Nat} {b : Byte} (h : Memory.wf m = true) :
    Memory.wf (Memory.write cap m a b) = true := by
  unfold Memory.write
  split
  · exact (insert_wf m a b h).1
  · exact h

/-- Every write keeps the listed cells below the capacity (R33, R118). -/
theorem write_within {cap : Nat} {m : Memory} {a : Nat} {b : Byte} (h : Memory.within cap m = true) :
    Memory.within cap (Memory.write cap m a b) = true := by
  unfold Memory.write
  split
  · rename_i ha
    unfold Memory.within at *
    induction m with
    | nil => simp [Memory.insert, ha]
    | cons c m ih =>
      obtain ⟨k, v⟩ := c
      simp only [List.all_cons, Bool.and_eq_true] at h
      simp only [Memory.insert]
      split
      · simp only [List.all_cons, ha, h.1, h.2, Bool.and_self, decide_true]
      · split
        · subst_vars
          simp only [List.all_cons, ha, h.2, Bool.and_self, decide_true]
        · simp only [List.all_cons, h.1, ih h.2]
          rfl
  · exact h

/-- Right after reset the buffer is in canonical form. -/
theorem reset_buf_wf : Memory.wf State.reset.buf = true := rfl

/-- A read below the first listed cell has no value. -/
theorem read_below {m : Memory} {a : Nat} (h : Memory.wf m = true) (ha : ∀ c ∈ m.head?, a < c.1) :
    Memory.read m a = none := by
  induction m with
  | nil => rfl
  | cons c m ih =>
    obtain ⟨k, v⟩ := c
    obtain ⟨hd, hm⟩ := wf_cons.1 h
    have hk : a < k := by simpa using ha
    rw [Memory.read, if_neg (by omega)]
    exact ih hm fun d hdm => Nat.lt_trans hk (hd d hdm)

/-- Two buffers in canonical form with the same contents are equal data. -/
theorem eq_of_read {m m' : Memory} (h : Memory.wf m = true) (h' : Memory.wf m' = true)
    (hr : ∀ a, Memory.read m a = Memory.read m' a) : m = m' := by
  induction m generalizing m' with
  | nil =>
    cases m' with
    | nil => rfl
    | cons c m' =>
      obtain ⟨k, v⟩ := c
      have := hr k
      simp [Memory.read] at this
  | cons c m ih =>
    obtain ⟨k, v⟩ := c
    cases m' with
    | nil =>
      have := hr k
      simp [Memory.read] at this
    | cons c' m' =>
      obtain ⟨k', v'⟩ := c'
      obtain ⟨hd, hm⟩ := wf_cons.1 h
      obtain ⟨hd', hm'⟩ := wf_cons.1 h'
      have hk : k = k' := by
        rcases Nat.lt_trichotomy k k' with hlt | heq | hlt
        · have := hr k
          rw [read_below h' (by simpa using hlt)] at this
          simp [Memory.read] at this
        · exact heq
        · have := hr k'
          rw [read_below h (by simpa using hlt)] at this
          simp [Memory.read] at this
      subst hk
      have hv : v = v' := by simpa [Memory.read] using hr k
      subst hv
      refine congrArg _ (ih hm hm' fun a => ?_)
      by_cases ha : a = k
      · subst ha
        rw [read_below hm hd, read_below hm' hd']
      · simpa [Memory.read, Ne.symm ha] using hr a

end Sys2Proof.Laws
end

