-- ==== Sys2Proof/Laws/State.lean ====
section
/-!
SUPPORT. One lemma per field and named update of the state, true by `rfl`, so that no proof unfolds a record update; and
what an arm of `FD.PUSH` leaves alone.
-/

namespace Sys2Proof.Laws

open Sys2Proof.Machine

/-! ## `State.answer` -/

@[simp] theorem answer_config (s : State) (v : Res) : (s.answer v).config = s.config := rfl
@[simp] theorem answer_crc (s : State) (v : Res) : (s.answer v).crc = s.crc := rfl
@[simp] theorem answer_crcv (s : State) (v : Res) : (s.answer v).crcv = s.crcv := rfl
@[simp] theorem answer_st (s : State) (v : Res) : (s.answer v).st = s.st := rfl
@[simp] theorem answer_ck (s : State) (v : Res) : (s.answer v).ck = s.ck := rfl
@[simp] theorem answer_len (s : State) (v : Res) : (s.answer v).len = s.len := rfl
@[simp] theorem answer_idx (s : State) (v : Res) : (s.answer v).idx = s.idx := rfl
@[simp] theorem answer_buf (s : State) (v : Res) : (s.answer v).buf = s.buf := rfl
@[simp] theorem answer_fault (s : State) (v : Res) : (s.answer v).fault = s.fault := rfl
@[simp] theorem answer_port (s : State) (v : Res) : (s.answer v).port = s.port := rfl
@[simp] theorem answer_res (s : State) (v : Res) : (s.answer v).res = some v := rfl
@[simp] theorem answer_rstCount (s : State) (v : Res) : (s.answer v).rstCount = s.rstCount := rfl

/-! ## `State.record` -/

@[simp] theorem record_config (s : State) (r : FaultRecord) : (s.record r).config = s.config := rfl
@[simp] theorem record_crc (s : State) (r : FaultRecord) : (s.record r).crc = s.crc := rfl
@[simp] theorem record_crcv (s : State) (r : FaultRecord) : (s.record r).crcv = s.crcv := rfl
@[simp] theorem record_st (s : State) (r : FaultRecord) : (s.record r).st = s.st := rfl
@[simp] theorem record_ck (s : State) (r : FaultRecord) : (s.record r).ck = s.ck := rfl
@[simp] theorem record_len (s : State) (r : FaultRecord) : (s.record r).len = s.len := rfl
@[simp] theorem record_idx (s : State) (r : FaultRecord) : (s.record r).idx = s.idx := rfl
@[simp] theorem record_buf (s : State) (r : FaultRecord) : (s.record r).buf = s.buf := rfl
@[simp] theorem record_fault (s : State) (r : FaultRecord) : (s.record r).fault = some r := rfl
@[simp] theorem record_port (s : State) (r : FaultRecord) : (s.record r).port = s.port := rfl
@[simp] theorem record_res (s : State) (r : FaultRecord) : (s.record r).res = none := rfl
@[simp] theorem record_rstCount (s : State) (r : FaultRecord) : (s.record r).rstCount = s.rstCount := rfl

/-! ## `State.writeCrc` -/

@[simp] theorem writeCrc_config (s : State) (c : Byte) : (s.writeCrc c).config = s.config := rfl
@[simp] theorem writeCrc_crc (s : State) (c : Byte) : (s.writeCrc c).crc = c := rfl
@[simp] theorem writeCrc_crcv (s : State) (c : Byte) : (s.writeCrc c).crcv = s.crcv := rfl
@[simp] theorem writeCrc_st (s : State) (c : Byte) : (s.writeCrc c).st = s.st := rfl
@[simp] theorem writeCrc_ck (s : State) (c : Byte) : (s.writeCrc c).ck = s.ck := rfl
@[simp] theorem writeCrc_len (s : State) (c : Byte) : (s.writeCrc c).len = s.len := rfl
@[simp] theorem writeCrc_idx (s : State) (c : Byte) : (s.writeCrc c).idx = s.idx := rfl
@[simp] theorem writeCrc_buf (s : State) (c : Byte) : (s.writeCrc c).buf = s.buf := rfl
@[simp] theorem writeCrc_fault (s : State) (c : Byte) : (s.writeCrc c).fault = s.fault := rfl
@[simp] theorem writeCrc_port (s : State) (c : Byte) : (s.writeCrc c).port = s.port := rfl
@[simp] theorem writeCrc_res (s : State) (c : Byte) : (s.writeCrc c).res = s.res := rfl
@[simp] theorem writeCrc_rstCount (s : State) (c : Byte) : (s.writeCrc c).rstCount = s.rstCount := rfl

/-! ## `State.seedCrc` -/

@[simp] theorem seedCrc_config (s : State) (c : Byte) : (s.seedCrc c).config = s.config := rfl
@[simp] theorem seedCrc_crc (s : State) (c : Byte) : (s.seedCrc c).crc = c := rfl
@[simp] theorem seedCrc_crcv (s : State) (c : Byte) : (s.seedCrc c).crcv = true := rfl
@[simp] theorem seedCrc_st (s : State) (c : Byte) : (s.seedCrc c).st = s.st := rfl
@[simp] theorem seedCrc_ck (s : State) (c : Byte) : (s.seedCrc c).ck = s.ck := rfl
@[simp] theorem seedCrc_len (s : State) (c : Byte) : (s.seedCrc c).len = s.len := rfl
@[simp] theorem seedCrc_idx (s : State) (c : Byte) : (s.seedCrc c).idx = s.idx := rfl
@[simp] theorem seedCrc_buf (s : State) (c : Byte) : (s.seedCrc c).buf = s.buf := rfl
@[simp] theorem seedCrc_fault (s : State) (c : Byte) : (s.seedCrc c).fault = s.fault := rfl
@[simp] theorem seedCrc_port (s : State) (c : Byte) : (s.seedCrc c).port = s.port := rfl
@[simp] theorem seedCrc_res (s : State) (c : Byte) : (s.seedCrc c).res = s.res := rfl
@[simp] theorem seedCrc_rstCount (s : State) (c : Byte) : (s.seedCrc c).rstCount = s.rstCount := rfl

/-! ## `State.resetUnits` -/

@[simp] theorem resetUnits_config (s : State) : (s.resetUnits).config = s.config := rfl
@[simp] theorem resetUnits_crc (s : State) : (s.resetUnits).crc = Config.crcAfterRst s.rstCount := rfl
@[simp] theorem resetUnits_crcv (s : State) : (s.resetUnits).crcv = false := rfl
@[simp] theorem resetUnits_st (s : State) : (s.resetUnits).st = .awaitHeader := rfl
@[simp] theorem resetUnits_ck (s : State) : (s.resetUnits).ck = 0x00#8 := rfl
@[simp] theorem resetUnits_len (s : State) : (s.resetUnits).len = 0x00#8 := rfl
@[simp] theorem resetUnits_idx (s : State) : (s.resetUnits).idx = 0x00#8 := rfl
@[simp] theorem resetUnits_buf (s : State) : (s.resetUnits).buf = [] := rfl
@[simp] theorem resetUnits_fault (s : State) : (s.resetUnits).fault = s.fault := rfl
@[simp] theorem resetUnits_port (s : State) : (s.resetUnits).port = s.port := rfl
@[simp] theorem resetUnits_res (s : State) : (s.resetUnits).res = s.res := rfl
@[simp] theorem resetUnits_rstCount (s : State) : (s.resetUnits).rstCount = s.rstCount + 1 := rfl

/-! ## `State.offer` -/

@[simp] theorem offer_config (s : State) (ws : List OpWord) : (s.offer ws).config = s.config := rfl
@[simp] theorem offer_crc (s : State) (ws : List OpWord) : (s.offer ws).crc = s.crc := rfl
@[simp] theorem offer_crcv (s : State) (ws : List OpWord) : (s.offer ws).crcv = s.crcv := rfl
@[simp] theorem offer_st (s : State) (ws : List OpWord) : (s.offer ws).st = s.st := rfl
@[simp] theorem offer_ck (s : State) (ws : List OpWord) : (s.offer ws).ck = s.ck := rfl
@[simp] theorem offer_len (s : State) (ws : List OpWord) : (s.offer ws).len = s.len := rfl
@[simp] theorem offer_idx (s : State) (ws : List OpWord) : (s.offer ws).idx = s.idx := rfl
@[simp] theorem offer_buf (s : State) (ws : List OpWord) : (s.offer ws).buf = s.buf := rfl
@[simp] theorem offer_fault (s : State) (ws : List OpWord) : (s.offer ws).fault = s.fault := rfl
@[simp] theorem offer_port (s : State) (ws : List OpWord) : (s.offer ws).port = s.port ++ ws := rfl
@[simp] theorem offer_res (s : State) (ws : List OpWord) : (s.offer ws).res = s.res := rfl
@[simp] theorem offer_rstCount (s : State) (ws : List OpWord) : (s.offer ws).rstCount = s.rstCount := rfl

/-! ## `State.offerFirst` -/

@[simp] theorem offerFirst_config (s : State) (n w : Nat) : (s.offerFirst n w).config = s.config := rfl
@[simp] theorem offerFirst_crc (s : State) (n w : Nat) : (s.offerFirst n w).crc = s.crc := rfl
@[simp] theorem offerFirst_crcv (s : State) (n w : Nat) : (s.offerFirst n w).crcv = s.crcv := rfl
@[simp] theorem offerFirst_st (s : State) (n w : Nat) : (s.offerFirst n w).st = s.st := rfl
@[simp] theorem offerFirst_ck (s : State) (n w : Nat) : (s.offerFirst n w).ck = s.ck := rfl
@[simp] theorem offerFirst_len (s : State) (n w : Nat) : (s.offerFirst n w).len = s.len := rfl
@[simp] theorem offerFirst_idx (s : State) (n w : Nat) : (s.offerFirst n w).idx = s.idx := rfl
@[simp] theorem offerFirst_buf (s : State) (n w : Nat) : (s.offerFirst n w).buf = s.buf := rfl
@[simp] theorem offerFirst_fault (s : State) (n w : Nat) : (s.offerFirst n w).fault = s.fault := rfl
@[simp] theorem offerFirst_port (s : State) (n w : Nat) : (s.offerFirst n w).port = BitVec.ofNat 12 (w % 2 ^ n) :: s.port := rfl
@[simp] theorem offerFirst_res (s : State) (n w : Nat) : (s.offerFirst n w).res = s.res := rfl
@[simp] theorem offerFirst_rstCount (s : State) (n w : Nat) : (s.offerFirst n w).rstCount = s.rstCount := rfl

/-! ## `State.withFetchWord` -/

@[simp] theorem withFetchWord_config (s : State) (n w : Nat) : (s.withFetchWord n w).config = s.config := rfl
@[simp] theorem withFetchWord_crc (s : State) (n w : Nat) : (s.withFetchWord n w).crc = s.crc := rfl
@[simp] theorem withFetchWord_crcv (s : State) (n w : Nat) : (s.withFetchWord n w).crcv = s.crcv := rfl
@[simp] theorem withFetchWord_st (s : State) (n w : Nat) : (s.withFetchWord n w).st = s.st := rfl
@[simp] theorem withFetchWord_ck (s : State) (n w : Nat) : (s.withFetchWord n w).ck = s.ck := rfl
@[simp] theorem withFetchWord_len (s : State) (n w : Nat) : (s.withFetchWord n w).len = s.len := rfl
@[simp] theorem withFetchWord_idx (s : State) (n w : Nat) : (s.withFetchWord n w).idx = s.idx := rfl
@[simp] theorem withFetchWord_buf (s : State) (n w : Nat) : (s.withFetchWord n w).buf = s.buf := rfl
@[simp] theorem withFetchWord_fault (s : State) (n w : Nat) : (s.withFetchWord n w).fault = s.fault := rfl
@[simp] theorem withFetchWord_port (s : State) (n w : Nat) : (s.withFetchWord n w).port = BitVec.ofNat 12 (w % 2 ^ n) :: s.port := rfl
@[simp] theorem withFetchWord_res (s : State) (n w : Nat) : (s.withFetchWord n w).res = s.res := rfl
@[simp] theorem withFetchWord_rstCount (s : State) (n w : Nat) : (s.withFetchWord n w).rstCount = s.rstCount := rfl

/-! ## The arms of `FD.PUSH`: only decoder registers and the buffer change -/

/-- What the selected arm of `FD.PUSH` can write: `ST`, `CK`, `LEN`, `IDX` and the buffer. -/
theorem pushArm_frame (b : Byte) (s : State) :
    (pushArm b s).1 =
      { s with
        st := (pushArm b s).1.st
        ck := (pushArm b s).1.ck
        len := (pushArm b s).1.len
        idx := (pushArm b s).1.idx
        buf := (pushArm b s).1.buf } := by
  unfold pushArm
  split <;> simp only [pushHeader, pushPayload, pushChecksum, pushLength]
  split <;> rfl

@[simp] theorem pushArm_config (b : Byte) (s : State) : (pushArm b s).1.config = s.config := by rw [pushArm_frame]
@[simp] theorem pushArm_crc (b : Byte) (s : State) : (pushArm b s).1.crc = s.crc := by rw [pushArm_frame]
@[simp] theorem pushArm_crcv (b : Byte) (s : State) : (pushArm b s).1.crcv = s.crcv := by rw [pushArm_frame]
@[simp] theorem pushArm_fault (b : Byte) (s : State) : (pushArm b s).1.fault = s.fault := by rw [pushArm_frame]
@[simp] theorem pushArm_port (b : Byte) (s : State) : (pushArm b s).1.port = s.port := by rw [pushArm_frame]
@[simp] theorem pushArm_res (b : Byte) (s : State) : (pushArm b s).1.res = s.res := by rw [pushArm_frame]
@[simp] theorem pushArm_rstCount (b : Byte) (s : State) : (pushArm b s).1.rstCount = s.rstCount := by rw [pushArm_frame]

end Sys2Proof.Laws
end

