-- ==== Sys2Proof/Laws/Ops.lean ====
section
/-!
SUPPORT. One lemma per shared operation that says all it can do, for later proofs to cite instead of unfolding it.
-/

namespace Sys2Proof.Laws

open Sys2Proof.Machine

/-! ## Operands -/

/-- `zext_9(DATA)` is the byte's value (R76). -/
theorem offset_eq (o : Byte) : offset o = o.toNat := by
  have := o.isLt
  simp only [offset, BitVec.truncate_eq_setWidth, BitVec.toNat_setWidth]
  omega

/-- The next offset does not wrap (R76). -/
theorem nextOffset_eq (o : Byte) : nextOffset o = o.toNat + 1 := by
  have := o.isLt
  simp only [nextOffset, BitVec.truncate_eq_setWidth, BitVec.toNat_setWidth, BitVec.toNat_add, BitVec.toNat_ofNat]
  omega

/-! ## Results -/

theorem toNat_byteRes (b : Byte) : (byteRes b).toNat = b.toNat := by
  have := b.isLt
  simp only [byteRes, BitVec.truncate_eq_setWidth, BitVec.toNat_setWidth]
  omega

theorem byteRes_inj {a b : Byte} (h : byteRes a = byteRes b) : a = b := by
  apply BitVec.eq_of_toNat_eq
  rw [← toNat_byteRes, h, toNat_byteRes]

/-- A 16-bit field is big-endian (R50). -/
theorem toNat_fieldRes (hi lo : Byte) : (fieldRes hi lo).toNat = hi.toNat * 256 + lo.toNat := by
  have := hi.isLt
  have := lo.isLt
  simp only [fieldRes, BitVec.truncate_eq_setWidth, BitVec.toNat_setWidth, BitVec.toNat_append, Nat.shiftLeft_eq]
  rw [Nat.mul_comm hi.toNat, ← Nat.two_pow_add_eq_or_of_lt lo.isLt]
  omega

@[simp] theorem pushRes_quiet : pushRes .quiet = 0#32 := by decide

/-! ## Running an operation -/

/-- A block that accepts operations runs the rest. -/
theorem accept_live {s : State} (h : s.fault = none) (k : State → Answer) : accept s k = k s := by
  simp only [accept, h]

/-- What `accept` answers with a next state: the block accepted, and the rest answered so. -/
theorem accept_next {s t : State} {k : State → Answer} :
    accept s k = .next t ↔ s.fault = none ∧ k s = .next t := by
  unfold accept
  cases h : s.fault <;> simp

/-- What `accept` answers with a fault. -/
theorem accept_fault {s : State} {k : State → Answer} {r : Fault} :
    accept s k = .fault r ↔ (∃ x, s.fault = some x ∧ r = .stopped x) ∨ (s.fault = none ∧ k s = .fault r) := by
  unfold accept
  cases h : s.fault <;> simp [eq_comm]

theorem reply_next {s t : State} {v : Res} : reply v s = .next t ↔ t = s.answer v := by
  simp [reply, eq_comm]

theorem raise_next {s t : State} {r : FaultRecord} : raise r s = .next t ↔ t = s.record r := by
  simp [raise, eq_comm]

/-- The read of `CRC`: with a value, the rest runs on it; without one, `CrcUnseeded` is recorded (R27). -/
theorem withCrc_cases (w : OpWord) (s : State) (k : Byte → Answer) :
    (s.crcv = true ∧ withCrc w s k = k s.crc) ∨
      (s.crcv = false ∧ withCrc w s k = .next (s.record (.crcUnseeded w))) := by
  cases h : s.crcv <;> simp [withCrc, h, raise]

/-- The range check: past the capacity, `BufRange` is recorded (R139). -/
theorem inRange_cases (w : OpWord) (o top : Nat) (s : State) (k : Answer) :
    (top < s.config.cap ∧ inRange w o top s k = k) ∨
      (s.config.cap ≤ top ∧ inRange w o top s k = .next (s.record (.bufRange w o))) := by
  by_cases h : s.config.cap ≤ top
  · exact .inr ⟨h, by simp [inRange, h, raise]⟩
  · exact .inl ⟨by omega, by simp [inRange, h]⟩

/-- The read of a cell: with a value, the rest runs on it; without one, `BufUnwritten` is recorded (R34). -/
theorem withCell_cases (w : OpWord) (a : Nat) (s : State) (k : Byte → Answer) :
    (∃ b, Memory.read s.buf a = some b ∧ withCell w a s k = k b) ∨
      (Memory.read s.buf a = none ∧ withCell w a s k = .next (s.record (.bufUnwritten w a))) := by
  cases h : Memory.read s.buf a <;> simp [withCell, h, raise]

/-! ## The command port -/

theorem fetch_none {s : State} : fetch s = none ↔ s.port = [] := by
  unfold fetch
  cases s.port <;> simp

theorem fetch_some {s t : State} {w : OpWord} :
    fetch s = some (w, t) ↔ ∃ rest, s.port = w :: rest ∧ t = { s with port := rest } := by
  unfold fetch
  cases s.port with
  | nil => simp
  | cons v rest =>
    simp only [Option.some.injEq, Prod.mk.injEq, List.cons.injEq]
    constructor
    · rintro ⟨rfl, rfl⟩
      exact ⟨rest, ⟨rfl, rfl⟩, rfl⟩
    · rintro ⟨_, ⟨rfl, rfl⟩, rfl⟩
      exact ⟨rfl, rfl⟩

/-- All that one step of the block can do, when it answers with a next state: hold the state on an empty port, record a
reserved word, or run the operation of the word it accepts. -/
theorem step_next {s t : State} (h : step s = .next t) :
    (s.fault = none ∧ s.port = [] ∧ t = { s with res := none }) ∨
      (∃ w rest why, s.fault = none ∧ s.port = w :: rest ∧ decode w = .reserved why ∧
        t = State.record { s with port := rest } (.reservedEncoding w)) ∨
      (∃ w rest i, s.port = w :: rest ∧ decode w = .instr i ∧ exec i { s with port := rest } = .next t) := by
  unfold step at h
  cases hf : fetch s with
  | none =>
    rw [hf] at h
    obtain ⟨h1, h2⟩ := accept_next.1 h
    refine .inl ⟨h1, fetch_none.1 hf, ?_⟩
    cases h2
    rfl
  | some p =>
    obtain ⟨w, u⟩ := p
    obtain ⟨rest, hp, rfl⟩ := fetch_some.1 hf
    simp only [hf] at h
    cases hd : decode w with
    | instr i =>
      rw [hd] at h
      exact .inr (.inr ⟨w, rest, i, hp, hd, h⟩)
    | reserved why =>
      rw [hd] at h
      obtain ⟨h1, h2⟩ := accept_next.1 h
      exact .inr (.inl ⟨w, rest, why, h1, hp, hd, raise_next.1 h2⟩)

/-! ## `FD.PUSH` -/

/-- A push on a block that accepts operations: the arm's state, answered with the arm's signals. -/
theorem execFdPush_live {s : State} (h : s.fault = none) (b : Byte) :
    execFdPush b s = .next ((pushArm b s).1.answer (pushRes (pushArm b s).2)) := accept_live h _

/-- Which buffer an arm of `FD.PUSH` leaves: the payload arm writes cell `IDX`, the others write none (R33). -/
theorem pushArm_buf (b : Byte) (s : State) :
    (s.st = .accumulatePayload ∧ (pushArm b s).1.buf = Memory.write s.config.cap s.buf s.idx.toNat b) ∨
      (s.st ≠ .accumulatePayload ∧ (pushArm b s).1.buf = s.buf) := by
  cases h : s.st <;> simp [pushArm, h, pushHeader, pushLength, pushPayload, pushChecksum]
  split <;> rfl

/-- An index below another byte does not wrap when it advances. -/
theorem toNat_add_one {x y : Byte} (h : x.toNat < y.toNat) : (x + 1#8).toNat = x.toNat + 1 := by
  have := y.isLt
  simp [BitVec.toNat_add]
  omega

end Sys2Proof.Laws
end

