-- ==== Sys2Proof/Laws/PerInstr.lean ====
section
/-!
SUPPORT. The per-instruction family `EncodeLegal`: the word of every operation is a legal operation word (30_encoding.md R82),
one lemma per constructor of `Instr`.
-/

namespace Sys2Proof.Laws

/-- The operation's word is legal: neither its opcode nor its data is reserved (R79, R80). -/
def EncodeLegal.Statement (i : Instr) : Prop := OpWord.wellFormed (encode i) = true

/-- A word is legal when its fields are: an operand operation's opcode, or zero data. -/
theorem wellFormed_opWord (op : BitVec 4) (d : Byte) :
    OpWord.wellFormed (opWord op d) =
      (!(0xA ≤ op.toNat && op.toNat ≤ 0xE) && (!([0x0, 0x4, 0x5, 0x9, 0xF].contains op.toNat) || d == 0#8)) := by
  change (let o := (opField (opWord op d)).toNat
    let v := dataField (opWord op d)
    !(decide (0xA ≤ o) && decide (o ≤ 0xE)) && (!([0x0, 0x4, 0x5, 0x9, 0xF].contains o) || v == 0#8)) = _
  rw [opField_opWord, dataField_opWord]

theorem EncodeLegal.nop : EncodeLegal.Statement .nop := wellFormed_opWord 0x0#4 0x00#8

theorem EncodeLegal.crcSeed (s : Byte) : EncodeLegal.Statement (.crcSeed s) := wellFormed_opWord 0x1#4 s

theorem EncodeLegal.crcUpd (b : Byte) : EncodeLegal.Statement (.crcUpd b) := wellFormed_opWord 0x2#4 b

theorem EncodeLegal.crcChk (r : Byte) : EncodeLegal.Statement (.crcChk r) := wellFormed_opWord 0x3#4 r

theorem EncodeLegal.crcRd : EncodeLegal.Statement .crcRd := wellFormed_opWord 0x4#4 0x00#8

theorem EncodeLegal.crcRdm : EncodeLegal.Statement .crcRdm := wellFormed_opWord 0x5#4 0x00#8

theorem EncodeLegal.fdPush (b : Byte) : EncodeLegal.Statement (.fdPush b) := wellFormed_opWord 0x6#4 b

theorem EncodeLegal.fdRdb (o : Byte) : EncodeLegal.Statement (.fdRdb o) := wellFormed_opWord 0x7#4 o

theorem EncodeLegal.fdRd16 (o : Byte) : EncodeLegal.Statement (.fdRd16 o) := wellFormed_opWord 0x8#4 o

theorem EncodeLegal.fdStat : EncodeLegal.Statement .fdStat := wellFormed_opWord 0x9#4 0x00#8

theorem EncodeLegal.rst : EncodeLegal.Statement .rst := wellFormed_opWord 0xF#4 0x00#8

end Sys2Proof.Laws
end

