-- ==== Sys2Proof/Laws/Run.lean ====
section
/-!
SUPPORT. How a run unfolds by one operation, one byte or one step, and what a transaction is made of.
-/

namespace Sys2Proof.Laws

open Sys2Proof.Machine

@[simp] theorem issue_nil (s : State) : issue [] s = ([], s) := rfl

theorem issue_cons_next {i : Instr} {s t : State} (h : exec i s = .next t) (is : List Instr) :
    issue (i :: is) s = (t.res.toList ++ (issue is t).1, (issue is t).2) := by
  rw [issue, h]

@[simp] theorem pushAll_nil (s : State) : pushAll [] s = ([], s) := rfl

theorem pushAll_cons_next {b : Byte} {s t : State} (h : exec (.fdPush b) s = .next t) (bs : List Byte) :
    pushAll (b :: bs) s = (t.res.toList ++ (pushAll bs t).1, (pushAll bs t).2) := issue_cons_next h _

@[simp] theorem trace_zero (s : State) : trace 0 s = ([], s) := rfl

theorem trace_succ_next {s t : State} (h : step s = .next t) (n : Nat) :
    trace (n + 1) s = (t.res.toList ++ (trace n t).1, (trace n t).2) := by
  rw [trace, h]

/-- Every transaction begins with the seed and its command byte, acknowledged or not (R100). -/
theorem transactionOps_begins (cmd : Byte) (a : BusAnswer) : (transactionOps cmd a).take 2 = sendCommand cmd := by
  cases a <;> rfl

/-- All the ways a transaction can end, by what the bus brought. -/
theorem transact_cases (cmd : Byte) (a : BusAnswer) (s : State) :
    (a = .noAcknowledge ∧ transact cmd a s = (.noAcknowledge, (issue (sendCommand cmd) s).2)) ∨
      (a = .timeout ∧ transact cmd a s = (.timeout, (issue (sendCommand cmd) s).2)) ∨
      ∃ x, a = .bytes x ∧ ((transact cmd a s).1 = .success (x.hi ++ x.lo) ∨ (transact cmd a s).1 = .crcError) := by
  cases a with
  | noAcknowledge => exact .inl ⟨rfl, rfl⟩
  | timeout => exact .inr (.inl ⟨rfl, rfl⟩)
  | bytes x =>
    refine .inr (.inr ⟨x, rfl, ?_⟩)
    simp only [transact, transactionEnd]
    split
    · exact .inl rfl
    · exact .inr rfl

end Sys2Proof.Laws
end

