-- ==== Sys2Proof/Machine/Assembler.lean ====
section
/-!
DEFINITION. The assembler syntax (30_encoding.md R84, R85): one line of text, as characters, to the operation words it
stands for; `none` for a line that is not of the syntax. The spellings beyond R84's own words are in log 12.
-/

namespace Sys2Proof.Machine

/-- A line without its comment: a `;` starts one (R84). -/
def asmCode : List Char → List Char
  | [] => []
  | c :: cs => if c = ';' then [] else c :: asmCode cs

/-- What separates a mnemonic and its operands: blanks and commas (R84, R85). -/
def asmSeparator (c : Char) : Bool := c = ' ' || c = '\t' || c = ','

/-- Put a finished token, if there is one, before the others. -/
def asmClose (cur : List Char) (rest : List (List Char)) : List (List Char) :=
  if cur.isEmpty then rest else cur.reverse :: rest

/-- The tokens of a line, `cur` the token being read, its characters reversed. -/
def asmTokens : List Char → List Char → List (List Char)
  | [], cur => asmClose cur []
  | c :: cs, cur => if asmSeparator c then asmClose cur (asmTokens cs []) else asmTokens cs (c :: cur)

/-- The value of a decimal digit. -/
def asmDecDigit (c : Char) : Option Nat :=
  if '0'.toNat ≤ c.toNat && c.toNat ≤ '9'.toNat then some (c.toNat - '0'.toNat) else none

/-- The value of a hexadecimal digit. -/
def asmHexDigit (c : Char) : Option Nat :=
  if '0'.toNat ≤ c.toNat && c.toNat ≤ '9'.toNat then some (c.toNat - '0'.toNat)
  else if 'A'.toNat ≤ c.toNat && c.toNat ≤ 'F'.toNat then some (c.toNat - 'A'.toNat + 10)
  else if 'a'.toNat ≤ c.toNat && c.toNat ≤ 'f'.toNat then some (c.toNat - 'a'.toNat + 10)
  else none

/-- A decimal number, `acc` the value of the digits read. -/
def asmDecimal : List Char → Nat → Option Nat
  | [], acc => some acc
  | c :: cs, acc =>
    match asmDecDigit c with
    | some d => asmDecimal cs (acc * 10 + d)
    | none => none

/-- `imm8`: `0xNN`, or decimal `0..255` (R84). -/
def asmImm8 (t : List Char) : Option Byte :=
  match t with
  | ['0', 'x', h, l] =>
    match asmHexDigit h, asmHexDigit l with
    | some a, some b => some (BitVec.ofNat 8 (a * 16 + b))
    | _, _ => none
  | [] => none
  | c :: cs =>
    match asmDecimal (c :: cs) 0 with
    | some n => if n ≤ 255 then some (BitVec.ofNat 8 n) else none
    | none => none

/-- The operands of a line. -/
def asmOperands : List (List Char) → Option (List Byte)
  | [] => some []
  | t :: ts =>
    match asmImm8 t, asmOperands ts with
    | some b, some bs => some (b :: bs)
    | _, _ => none

/-- An operation with one operand (R84). -/
def asmOne (f : Byte → Instr) : List Byte → Option (List Instr)
  | [b] => some [f b]
  | _ => none

/-- A must-be-zero operation: no operand, or `0x00` (R84). Any other spelling of zero, such as decimal `0`, is taken too, on
which R84 is silent (DESIGN CHOICE, log 12). -/
def asmZero (i : Instr) : List Byte → Option (List Instr)
  | [] => some [i]
  | [b] => if b = 0x00#8 then some [i] else none
  | _ => none

/-- A pseudo-instruction is the text of its expansion (R85). -/
def asmPseudo (p : Pseudo) : Option (List Instr) := if p.wellFormed then some p.expand else none

/-- The operations a mnemonic and its operands stand for (R77, R84, R85). -/
def asmLine (m : List Char) (ops : List Byte) : Option (List Instr) :=
  if m = ['N', 'O', 'P'] then asmZero .nop ops
  else if m = ['C', 'R', 'C', '.', 'S', 'E', 'E', 'D'] then asmOne .crcSeed ops
  else if m = ['C', 'R', 'C', '.', 'U', 'P', 'D'] then asmOne .crcUpd ops
  else if m = ['C', 'R', 'C', '.', 'C', 'H', 'K'] then asmOne .crcChk ops
  else if m = ['C', 'R', 'C', '.', 'R', 'D'] then asmZero .crcRd ops
  else if m = ['C', 'R', 'C', '.', 'R', 'D', 'M'] then asmZero .crcRdm ops
  else if m = ['F', 'D', '.', 'P', 'U', 'S', 'H'] then asmOne .fdPush ops
  else if m = ['F', 'D', '.', 'R', 'D', 'B'] then asmOne .fdRdb ops
  else if m = ['F', 'D', '.', 'R', 'D', '1', '6'] then asmOne .fdRd16 ops
  else if m = ['F', 'D', '.', 'S', 'T', 'A', 'T'] then asmZero .fdStat ops
  else if m = ['R', 'S', 'T'] then asmZero .rst ops
  else if m = ['F', 'D', '.', 'F', 'E', 'E', 'D'] then asmPseudo (.fdFeed ops)
  else
    match ops with
    | [] =>
      if m = ['C', 'R', 'C', '.', 'S', 'T', 'A', 'R', 'T'] then asmPseudo .crcStart
      else if m = ['F', 'D', '.', 'P', 'M'] then asmPseudo .fdPm
      else none
    | [c, h, l, k] => if m = ['C', 'R', 'C', '.', 'T', 'X', 'N'] then asmPseudo (.crcTxn c h l k) else none
    | _ => none

/-- The operations a line of text stands for; an empty line or a comment stands for none (R84). -/
def assembleInstrs (line : List Char) : Option (List Instr) :=
  match asmTokens (asmCode line) [] with
  | [] => some []
  | m :: ts =>
    match asmOperands ts with
    | some ops => asmLine m ops
    | none => none

/-- The operation words a line of text assembles to (R84). -/
def assemble (line : List Char) : Option (List OpWord) :=
  match assembleInstrs line with
  | some is => some (is.map encode)
  | none => none

end Sys2Proof.Machine
end

