-- ==== Sys2Proof/Tests/Slice0.lean ====
section
/-!
SUPPORT. The model's own tests. Expected values are those of spec/95_test_vectors.md, whose vector each comment names, or are
written out from 30_encoding.md. The last part shows, for every statement with hypotheses, operands and a state that meet them.
-/

namespace Sys2Proof.Tests

open Sys2Proof Sys2Proof.Machine

/-! ## Small states -/

/-- The state a meaning leaves. -/
def after : Answer → Option State
  | .next t => some t
  | .fault _ => none
  | .refused _ => none

/-- What a step shows: the result it returned and the fault it recorded. -/
def shown (a : Answer) : Option (Option Res × Option FaultRecord) := (after a).map fun t => (t.res, t.fault)

/-- The decoder registers after a step, with its result: the state column of V7. -/
def decoder (a : Answer) : Option (DecoderState × Byte × Byte × Byte × Option Res) :=
  (after a).map fun t => (t.st, t.ck, t.len, t.idx, t.res)

/-- A block that accepts operations: the reset state. -/
abbrev live : State := State.reset

/-- `CRC = 0x31`, seeded (V4). -/
abbrev seeded : State := { live with crc := 0x31#8, crcv := true }

/-- A block with a recorded fault (V10, word 0x400 from reset). -/
abbrev broken : State := { live with fault := some (.crcUnseeded 0x400#12) }

/-- After the push 16 (V7). -/
abbrev atLength : State := { live with st := .awaitLength, ck := 0x16#8 }

/-- After the pushes 16 02 16 (V7). -/
abbrev atPayload : State :=
  { live with st := .accumulatePayload, ck := 0x2E#8, len := 2#8, idx := 1#8, buf := [(0, 0x16#8)] }

/-- After the pushes 16 02 16 16 (V7). -/
abbrev atChecksum : State :=
  { live with st := .awaitChecksum, ck := 0x44#8, len := 2#8, idx := 2#8, buf := [(0, 0x16#8), (1, 0x16#8)] }

/-- A block whose last two cells, 30 and 31, are written. -/
abbrev topCells : State := { live with buf := [(30, 0x12#8), (31, 0x34#8)] }

/-- A block with these words offered on its port. -/
abbrev offered (s : State) (ws : List OpWord) : State := { s with port := ws }

/-! ## Well-formedness refuses ill-formed terms -/

theorem test_wellFormed_refuses_reserved_op : OpWord.wellFormed 0xA00#12 = false := by decide
theorem test_wellFormed_refuses_last_reserved_op : OpWord.wellFormed 0xEFF#12 = false := by decide
theorem test_wellFormed_refuses_nonzero_data : OpWord.wellFormed 0x001#12 = false := by decide
theorem test_wellFormed_accepts_legal_word : OpWord.wellFormed 0x8FF#12 = true := by decide
theorem test_config_refuses_small_capacity : Config.wellFormed { cap := 16 } = false := by decide
theorem test_config_refuses_large_capacity : Config.wellFormed { cap := 256 } = false := by decide
theorem test_config_accepts_bounds : Config.wellFormed { cap := 17 } = true ∧ Config.wellFormed { cap := 255 } = true := by
  decide
theorem test_frame_refuses_256_bytes :
    Frame.wellFormed { payload := List.replicate 256 0x00#8, checksum := 0x00#8 } = false := by decide +kernel
theorem test_frame_over_capacity_does_not_fit :
    Frame.fits 32 { payload := List.replicate 33 0x00#8, checksum := 0x00#8 } = false := by decide
theorem test_pseudo_refuses_empty_feed : Pseudo.wellFormed (.fdFeed []) = false := by decide

/-! ## Decoding: words written out bit by bit from R75 and R77, 12 bits, `OP` first -/

theorem test_decode_nop : decode 0b0000_00000000#12 = .instr .nop := by decide
theorem test_decode_crcSeed : decode 0b0001_10100101#12 = .instr (.crcSeed 0xA5#8) := by decide
theorem test_decode_crcUpd : decode 0b0010_00001110#12 = .instr (.crcUpd 0x0E#8) := by decide
theorem test_decode_crcChk : decode 0b0011_01000101#12 = .instr (.crcChk 0x45#8) := by decide
theorem test_decode_crcRd : decode 0b0100_00000000#12 = .instr .crcRd := by decide
theorem test_decode_crcRdm : decode 0b0101_00000000#12 = .instr .crcRdm := by decide
theorem test_decode_fdPush : decode 0b0110_01001001#12 = .instr (.fdPush 0x49#8) := by decide
theorem test_decode_fdRdb : decode 0b0111_00011111#12 = .instr (.fdRdb 0x1F#8) := by decide
theorem test_decode_fdRd16 : decode 0b1000_00001011#12 = .instr (.fdRd16 0x0B#8) := by decide
theorem test_decode_fdStat : decode 0b1001_00000000#12 = .instr .fdStat := by decide
theorem test_decode_rst : decode 0b1111_00000000#12 = .instr .rst := by decide
theorem test_encode_reference_checksum : encode (.fdPush 0x49#8) = 0x649#12 := by decide

/-- V11: reserved data and reserved opcodes. -/
theorem test_decode_reserved :
    decode 0x0FF#12 = .reserved (.dataNotZero 0x0#4 0xFF#8) ∧ decode 0x580#12 = .reserved (.dataNotZero 0x5#4 0x80#8) ∧
      decode 0xA00#12 = .reserved (.opcode 0xA#4) ∧ decode 0xEFF#12 = .reserved (.opcode 0xE#4) := by decide

/-- A table word is 12 bits; in two whole bytes its upper four bits are zero, and nothing else is an operation word. -/
theorem test_decodeTableWord :
    decodeTableWord 12 0x804 = some (.fdRd16 0x04#8) ∧ decodeTableWord 16 0x804 = some (.fdRd16 0x04#8) ∧
      decodeTableWord 16 0x1804 = none ∧ decodeTableWord 12 0xF01 = none := by decide

/-! ## One step of each operation -/

/-- V11, R134. -/
theorem test_nop : after (execNop seeded) = some { seeded with res := some 0x00000000#32 } := by decide

/-- V1: seed 0x0F. -/
theorem test_crcSeed : (after (execCrcSeed 0x0F#8 live)).map (fun t => (t.crc, t.crcv)) = some (0xF0#8, true) := by decide

/-- V2: 0x31 fed 0x31 cancels; 0x80 fed 0x00 feeds back. -/
theorem test_crcUpd_cancels : (after (execCrcUpd 0x31#8 seeded)).map (·.crc) = some 0x00#8 := by decide
theorem test_crcUpd_feeds_back :
    (after (execCrcUpd 0x00#8 { seeded with crc := 0x80#8 })).map (·.crc) = some 0x7A#8 := by decide

/-- V4: the byte is mirrored before the compare. -/
theorem test_crcChk_matches : shown (execCrcChk 0x8C#8 seeded) = some (some 0x00000001#32, none) := by decide
theorem test_crcChk_mirrors : shown (execCrcChk 0x31#8 seeded) = some (some 0x00000000#32, none) := by decide

/-- V5, V10. -/
theorem test_crcRd : shown (execCrcRd seeded) = some (some 0x00000031#32, none) := by decide
theorem test_crcRd_unseeded : shown (execCrcRd live) = some (none, some (.crcUnseeded 0x400#12)) := by decide
theorem test_crcRdm : shown (execCrcRdm seeded) = some (some 0x0000008C#32, none) := by decide
theorem test_crcRdm_unseeded : shown (execCrcRdm live) = some (none, some (.crcUnseeded 0x500#12)) := by decide

/-- V7: 0x16 as a length byte is a length; one over the capacity is the overflow. -/
theorem test_fdPush_length :
    decoder (execFdPush 0x16#8 atLength) = some (.accumulatePayload, 0x2C#8, 22#8, 0#8, some 0x00000000#32) := by decide
theorem test_fdPush_overflow :
    decoder (execFdPush 0x21#8 atLength) = some (.awaitHeader, 0x37#8, 0#8, 0#8, some 0x00000004#32) := by decide

/-- V7: 16 02 16, then 16, writes `BUF[1]` and ends the payload. -/
theorem test_fdPush_payload : after (execFdPush 0x16#8 atPayload) = some { atChecksum with res := some 0#32 } := by decide

/-- V7: the checksum BC is valid. -/
theorem test_fdPush_checksum :
    decoder (execFdPush 0xBC#8 atChecksum) = some (.awaitHeader, 0x00#8, 2#8, 2#8, some 0x00000003#32) := by decide

/-- R113 at the capacity's edge, and V8 from reset at offset 31. -/
theorem test_fdRdb_last_cell : shown (execFdRdb 31#8 topCells) = some (some 0x00000034#32, none) := by decide
theorem test_fdRdb_unwritten :
    shown (execFdRdb 31#8 live) = some (none, some (.bufUnwritten 0x71F#12 31)) := by decide

/-- R114: big-endian; V8: offset 255 does not wrap. -/
theorem test_fdRd16_big_endian : shown (execFdRd16 30#8 topCells) = some (some 0x00001234#32, none) := by decide
theorem test_fdRd16_no_wrap : shown (execFdRd16 255#8 topCells) = some (none, some (.bufRange 0x8FF#12 255)) := by decide

/-- V9: 16 02 16 16. -/
theorem test_fdStat : shown (execFdStat atChecksum) = some (some 0x02024403#32, none) := by decide

/-- V11: after `RST` the status is zero, the CRC unseeded and no cell written. -/
theorem test_rst :
    (after (execRst { atChecksum with crcv := true })).map (fun t => (statRes t, t.crcv, t.buf)) =
      some (0x00000000#32, false, []) := by decide

/-! ## Steps of the machine -/

/-- V10: the reserved check comes before the seed check. -/
theorem test_step_reserved_first :
    shown (step (offered live [0x401#12])) = some (none, some (.reservedEncoding 0x401#12)) := by decide

/-- The word that the host places is the first to run. -/
theorem test_step_runs_fetch_word :
    (after (step (State.reset.withFetchWord 12 0x10F))).map (fun t => (t.crc, t.port)) = some (0xF0#8, []) := by decide

/-- V10: a recorded fault is not cleared by `RST`. -/
theorem test_step_stopped : step (offered broken [0xF00#12]) = .fault (.stopped (.crcUnseeded 0x400#12)) := rfl

/-- R158: the buffer right after reset is in canonical form, within the capacity. -/
theorem test_reset_memory : Memory.wf State.reset.buf = true ∧ Memory.within 32 State.reset.buf = true := by decide

/-- The canonical form refuses a list out of order, and one with a repeated offset. -/
theorem test_memory_wf_refuses :
    Memory.wf [(1, 0x00#8), (0, 0x00#8)] = false ∧ Memory.wf [(1, 0x00#8), (1, 0x01#8)] = false := by decide

/-- V6: the table has 256 entries; `T[0x5A ^ 0xA5] = 0xAC` (V2). -/
theorem test_crcTable : crcTable.length = 256 ∧ crcTableStep 0x5A#8 0xA5#8 = 0xAC#8 := by decide +kernel

/-! ## The consumer and the assembler -/

/-- W6: the temperature transaction with the illustrative command 0x03, and with the checksum of another reading. -/
theorem test_transact :
    (transact 0x03#8 (.bytes { hi := 0x0E#8, lo := 0xA0#8, check := 0xDA#8 }) live).1 = .success 3744#16 ∧
      (transact 0x03#8 (.bytes { hi := 0x0E#8, lo := 0xA0#8, check := 0xF5#8 }) live).1 = .crcError := by decide +kernel

/-- R100, V6: without an acknowledge the transaction fails with its command fed, `T[0x03] = 0x53`, and no compare. -/
theorem test_transact_noAcknowledge :
    transact 0x03#8 .noAcknowledge live =
      (.noAcknowledge, { live with crc := 0x53#8, crcv := true, res := some 0x00000000#32 }) := by decide +kernel

/-- R104, R100: a timeout in the temperature transaction keeps the latest reading. -/
theorem test_measure_timeout :
    (Session.measure .timeout (.bytes { hi := 0x01#8, lo := 0x90#8, check := 0x45#8 })
      { block := live, latest := some { temperature := 3744#16, humidity := 400#16 } }).latest =
      some { temperature := 3744#16, humidity := 400#16 } := rfl

/-- R42: a transaction given up before its first operation leaves the block as it was. -/
theorem test_abandon :
    (abandon 0 0x03#8 { hi := 0x0E#8, lo := 0xA0#8, check := 0xDA#8 } live).crcv = false := by decide

/-- V7: an overflow, then a retry. -/
theorem test_overflow_then_retry :
    (pushAll [0x16#8, 0xFF#8, 0x16#8, 0x00#8, 0xEA#8] live).1 =
      [0x00000000#32, 0x00000004#32, 0x00000000#32, 0x00000000#32, 0x00000003#32] := by decide

/-- R84, R85: a comment, a decimal operand, and the expansion of the measurement transaction (W6). -/
theorem test_assemble_line :
    assemble ['F', 'D', '.', 'R', 'D', '1', '6', ' ', '1', '1', ' ', ';', 'x'] = some [0x80B#12] := by decide +kernel
theorem test_assemble_refuses_256 : assemble ['C', 'R', 'C', '.', 'U', 'P', 'D', ' ', '2', '5', '6'] = none := by decide +kernel
theorem test_expand_transaction :
    (Pseudo.expand (.crcTxn 0x03#8 0x0E#8 0xA0#8 0xDA#8)).map encode = [0x100#12, 0x203#12, 0x20E#12, 0x2A0#12, 0x3DA#12] := by
  decide +kernel

/-! ## The hypotheses of the statements can be met -/

theorem witness_BothResetsLeaveTheSameValues :
    live.fault = none ∧ broken.fault = some (.crcUnseeded 0x400#12) := by decide

theorem witness_StepRunsTheDecodedWord :
    (offered live [0x1FF#12, 0x400#12]).port = 0x1FF#12 :: [0x400#12] ∧ decode 0x1FF#12 = .instr (.crcSeed 0xFF#8) := by decide

/-- Both ends of the reserved opcodes, and every must-be-zero opcode with the least and the greatest non-zero data. -/
theorem witness_ReservedWordRaisesReservedEncoding :
    (offered live [0xA00#12]).fault = none ∧ (offered live [0xA00#12]).port = 0xA00#12 :: [] ∧
      ([0xA00#12, 0xEFF#12].all fun w => 0xA#4 ≤ opField w ∧ opField w ≤ 0xE#4) = true ∧
      ([0x001#12, 0x0FF#12, 0x401#12, 0x4FF#12, 0x501#12, 0x5FF#12, 0x901#12, 0x9FF#12, 0xF01#12, 0xFFF#12].all fun w =>
        (opField w = 0x0#4 ∨ opField w = 0x4#4 ∨ opField w = 0x5#4 ∨ opField w = 0x9#4 ∨ opField w = 0xF#4) ∧
          dataField w ≠ 0x00#8) = true := by decide

theorem witness_IdleStepHoldsTheState : live.fault = none ∧ live.port = [] := by decide

theorem witness_RecordedFaultStopsTheBlock : broken.fault = some (.crcUnseeded 0x400#12) := by decide

/-- What `DataIsOperand` asks: a word with the operation's `OP` on the port, at both ends of `DATA`. -/
theorem witness_DataIsOperand :
    ([0x1#4, 0x2#4, 0x3#4, 0x6#4, 0x7#4, 0x8#4].all fun op => [0x00#8, 0xFF#8].all fun d =>
      (offered live [opWord op d]).port = opWord op d :: []) = true := by decide

/-- What `DataMustBeZero` asks: such a word with zero and with non-zero `DATA`. -/
theorem witness_DataMustBeZero :
    live.fault = none ∧ (0x01#8 : Byte) ≠ 0x00#8 ∧ (0xFF#8 : Byte) ≠ 0x00#8 ∧
      ([0x0#4, 0x4#4, 0x5#4, 0x9#4, 0xF#4].all fun op => [0x00#8, 0x01#8, 0xFF#8].all fun d =>
        (offered live [opWord op d]).port = opWord op d :: []) = true := by decide

theorem witness_NopChangesNothing : seeded.fault = none := by decide

theorem witness_RstResetsBothUnits :
    atChecksum.fault = none ∧ broken.fault = some (.crcUnseeded 0x400#12) := by decide

theorem witness_CrcSeedWritesTheMirroredByte : live.fault = none ∧ seeded.fault = none := by decide

/-- Both clauses of `CRC.UPD`, `CRC.CHK`, `CRC.RD` and `CRC.RDM`: a seeded and an unseeded register. -/
theorem witness_CrcUpdFeedsOneByte :
    (seeded.fault = none ∧ seeded.crcv = true) ∧ (live.fault = none ∧ live.crcv = false) := by decide
theorem witness_CrcChkComparesTheMirroredByte :
    (seeded.fault = none ∧ seeded.crcv = true) ∧ (live.fault = none ∧ live.crcv = false) := by decide
theorem witness_CrcRdReturnsTheRegister :
    (seeded.fault = none ∧ seeded.crcv = true) ∧ (live.fault = none ∧ live.crcv = false) := by decide
theorem witness_CrcRdmReturnsTheMatchingByte :
    (seeded.fault = none ∧ seeded.crcv = true) ∧ (live.fault = none ∧ live.crcv = false) := by decide

theorem witness_MirrorReversesTheBits : 0 < 8 ∧ 7 < 8 := by decide

theorem witness_FeedingLeavesZeroExactlyOnTheRegister : seeded.fault = none ∧ seeded.crcv = true := by decide

theorem witness_CrcIsLinearAndDetectsOneChangedByte : (0x00#8 : Byte) ≠ 0x01#8 := by decide

theorem witness_FedBytesGiveTheTableDrivenCrc : live.fault = none := by decide

theorem witness_MirroredRegisterIsTheReflectedCrc : live.fault = none := by decide

/-- A register that changes under `CRC.SEED`, under `CRC.UPD`, and under `RST`. -/
theorem witness_OnlySeedUpdRstWriteTheCrcUnit :
    (exec (.crcSeed 0x01#8) live = .next { live with crc := 0x80#8, crcv := true, res := some 0#32 } ∧
        ¬ live.SameCrcUnit { live with crc := 0x80#8, crcv := true, res := some 0#32 }) ∧
      (exec (.crcUpd 0x31#8) seeded = .next { seeded with crc := 0x00#8, res := some 0#32 } ∧
        ¬ seeded.SameCrcUnit { seeded with crc := 0x00#8, res := some 0#32 }) ∧
      (exec .rst seeded = .next (seeded.resetUnits.answer 0#32) ∧ ¬ seeded.SameCrcUnit (seeded.resetUnits.answer 0#32)) :=
  ⟨⟨rfl, by decide⟩, ⟨rfl, by decide⟩, ⟨rfl, fun h => absurd h.2 (by decide)⟩⟩

theorem witness_PushInAwaitHeader : live.fault = none ∧ live.st = .awaitHeader := by decide

/-- The length at the capacity and one over it. -/
theorem witness_PushInAwaitLength :
    atLength.fault = none ∧ atLength.st = .awaitLength ∧ (32#8 : Byte).toNat ≤ atLength.config.cap ∧
      (0#8 : Byte).toNat ≤ atLength.config.cap ∧ atLength.config.cap < (33#8 : Byte).toNat ∧
      atLength.config.cap < (255#8 : Byte).toNat := by decide

/-- The cell stored to below the capacity, a cell on either side of it, and the last index below the capacity. -/
theorem witness_PushInAccumulatePayload :
    (atPayload.fault = none ∧ atPayload.st = .accumulatePayload ∧ atPayload.idx.toNat < atPayload.config.cap ∧
        0 ≠ atPayload.idx.toNat ∧ 2 ≠ atPayload.idx.toNat) ∧
      ({ atPayload with idx := 31#8 } : State).idx.toNat < atPayload.config.cap := by decide

theorem witness_PushInAwaitChecksum : atChecksum.fault = none ∧ atChecksum.st = .awaitChecksum := by decide

theorem witness_PushNeverFaultsAndReportsOneOutcome : atChecksum.fault = none ∧ atLength.fault = none := by decide

theorem witness_PushNeverWritesPastCapacity :
    exec (.fdPush 33#8) atLength = .next { atLength with ck := 0x37#8, st := .awaitHeader, res := some 4#32 } ∧
      atLength.config.cap ≤ 32 ∧ atLength.st = .awaitLength ∧ atLength.config.cap < (33#8 : Byte).toNat :=
  ⟨rfl, by decide⟩

theorem witness_OnlyPushWritesTheBufferAndOnlyAtIdx :
    (exec (.fdPush 0x16#8) atPayload = .next { atChecksum with res := some 0#32 } ∧
        Memory.read atChecksum.buf 1 ≠ Memory.read atPayload.buf 1) ∧
      (exec .rst atPayload = .next (atPayload.resetUnits.answer 0#32) ∧
        Memory.read (atPayload.resetUnits.answer 0#32).buf 0 ≠ Memory.read atPayload.buf 0) :=
  ⟨⟨rfl, by decide⟩, ⟨rfl, by decide⟩⟩

/-- Out of range at 32 and 255; unwritten at 0 and 29; written at 30 and 31. -/
theorem witness_FdRdbReturnsTheCell :
    topCells.fault = none ∧
      (topCells.config.cap ≤ (32#8 : Byte).toNat ∧ topCells.config.cap ≤ (255#8 : Byte).toNat) ∧
      ((0#8 : Byte).toNat < topCells.config.cap ∧ Memory.read topCells.buf (0#8 : Byte).toNat = none) ∧
      ((29#8 : Byte).toNat < topCells.config.cap ∧ Memory.read topCells.buf (29#8 : Byte).toNat = none) ∧
      ((30#8 : Byte).toNat < topCells.config.cap ∧ Memory.read topCells.buf (30#8 : Byte).toNat = some 0x12#8) ∧
      ((31#8 : Byte).toNat < topCells.config.cap ∧ Memory.read topCells.buf (31#8 : Byte).toNat = some 0x34#8) := by decide

/-- Out of range at 31; both cells written at 30; the first unwritten at 29; the second unwritten at 1 of another block. -/
theorem witness_FdRd16ReturnsTheBigEndianField :
    topCells.fault = none ∧ atChecksum.fault = none ∧
      topCells.config.cap ≤ (31#8 : Byte).toNat + 1 ∧
      ((29#8 : Byte).toNat + 1 < topCells.config.cap ∧ Memory.read topCells.buf (29#8 : Byte).toNat = none) ∧
      ((1#8 : Byte).toNat + 1 < atChecksum.config.cap ∧ Memory.read atChecksum.buf (1#8 : Byte).toNat = some 0x16#8 ∧
        Memory.read atChecksum.buf ((1#8 : Byte).toNat + 1) = none) ∧
      ((30#8 : Byte).toNat + 1 < topCells.config.cap ∧ Memory.read topCells.buf (30#8 : Byte).toNat = some 0x12#8 ∧
        Memory.read topCells.buf ((30#8 : Byte).toNat + 1) = some 0x34#8) := by decide

theorem witness_FieldIsItsTwoBytes : topCells.fault = none ∧ (30#8 : Byte).toNat < 255 ∧ (254#8 : Byte).toNat < 255 := by
  decide

theorem witness_FdStatReturnsTheDecoderRegisters : atChecksum.fault = none := by decide

theorem witness_FaultsAreExactlyTheFaultTable :
    (offered live [0x720#12]).fault = none ∧ (offered live [0x720#12]).port = 0x720#12 :: [] ∧
      (offered live [0x720#12]).wordFault 0x720#12 = some (.bufRange 0x720#12 32) ∧
      (offered topCells [0x71F#12]).wordFault 0x71F#12 = none := by decide

/-- A read that answers and one that faults. -/
theorem witness_ReadsChangeNothingAndRepeat :
    readsOnly .crcRd = true ∧ exec .crcRd seeded = .next { seeded with res := some 0x31#32 } ∧
      exec .crcRd live = .next { broken with res := none } ∧ broken.fault = some (.crcUnseeded 0x400#12) :=
  ⟨rfl, rfl, rfl, rfl⟩

theorem witness_UnitsShareNoState :
    (exec (.crcUpd 0x31#8) seeded = .next { seeded with crc := 0x00#8, res := some 0#32 } ∧
        opUnit (.crcUpd 0x31#8) = .crcUnit ∧
        ({ atPayload with crc := 0x31#8, crcv := true } : State).fault = seeded.fault ∧
        seeded.SameCrcUnit { atPayload with crc := 0x31#8, crcv := true }) ∧
      (exec .fdStat atLength = .next { atLength with res := some 0x00001601#32 } ∧ opUnit .fdStat = .frameDecoder ∧
        ({ atLength with crc := 0xFF#8, crcv := true } : State).fault = atLength.fault ∧
        atLength.SameFrameDecoder { atLength with crc := 0xFF#8, crcv := true }) :=
  ⟨⟨rfl, by decide⟩, ⟨rfl, by decide⟩⟩

theorem witness_UnitsInterleaveInAnyOrder :
    opUnit .crcRd = .crcUnit ∧ opUnit (.fdPush 0x16#8) = .frameDecoder ∧
      (issue [.crcRd, .fdPush 0x16#8] seeded).1 = [0x31#32, 0x00#32] := by decide

theorem witness_NoStepChangesTheCapacity : step (offered live [0x000#12]) = .next { live with res := some 0#32 } := rfl

theorem witness_EveryStepKeepsTheDecoderInvariant :
    (offered atPayload [0x616#12]).Inv ∧
      step (offered atPayload [0x616#12]) = .next { atChecksum with res := some 0#32 } := ⟨by decide, rfl⟩

theorem witness_EveryStepKeepsTheFrameSum :
    (offered atPayload [0x616#12]).Inv ∧ (offered atPayload [0x616#12]).SumInv ∧
      step (offered atPayload [0x616#12]) = .next { atChecksum with res := some 0#32 } := ⟨by decide, by decide, rfl⟩

theorem witness_PowerOnSatisfiesTheInvariants :
    Config.wellFormed { cap := 17 } = true ∧ Config.wellFormed { cap := 255 } = true := by decide

/-- An empty payload and one that fills the capacity. -/
theorem witness_FrameFromAwaitHeaderIsDecoded :
    live.fault = none ∧ live.st = .awaitHeader ∧ Frame.fits live.config.cap { payload := [], checksum := 0xEA#8 } = true ∧
      Frame.fits live.config.cap { payload := List.replicate 32 0x00#8, checksum := 0xCA#8 } = true := by decide

theorem witness_OversizedFrameIsDiscardedAtItsLength :
    live.fault = none ∧ live.st = .awaitHeader ∧ live.config.cap < (33#8 : Byte).toNat ∧
      live.config.cap < (255#8 : Byte).toNat := by decide

theorem witness_CapacityPlusTwoPushesReturnToHeader :
    live.fault = none ∧ live.Inv ∧ (List.replicate 34 0x00#8).length = live.config.cap + 2 ∧
      (∀ b ∈ List.replicate 34 (0x00#8 : Byte), b ≠ 0x16#8) ∧
      atLength.fault = none ∧ atLength.Inv ∧ atLength.st ≠ .awaitHeader :=
  ⟨rfl, by decide, rfl, fun b hb => by rw [List.eq_of_mem_replicate hb]; decide, rfl, by decide, by decide⟩

theorem witness_AnyCapacityPlusTwoPushesPassThroughHeader :
    live.fault = none ∧ live.Inv ∧ (List.replicate 34 0x00#8).length = live.config.cap + 2 := by decide +kernel

theorem witness_NothingBeforeAwaitHeaderAffectsDecoding :
    live.fault = none ∧ seeded.fault = none ∧ live.st = .awaitHeader ∧
      ({ seeded with ck := 0xAA#8, len := 5#8, idx := 5#8 } : State).st = .awaitHeader ∧
      live.config = ({ seeded with ck := 0xAA#8, len := 5#8, idx := 5#8 } : State).config := by decide

theorem witness_StepsRunTheOfferedOperations :
    (offered live [0x10F#12, 0x400#12, 0xA00#12]).fault = none ∧
      (offered live [0x10F#12, 0x400#12, 0xA00#12]).port = [Instr.crcSeed 0x0F#8, Instr.crcRd].map encode ++ [0xA00#12] ∧
      (issue [.crcSeed 0x0F#8, .crcRd] (offered live [0x10F#12, 0x400#12, 0xA00#12])).2.fault = none := by decide

theorem witness_TransactionSucceedsExactlyOnItsChecksum : live.fault = none := by decide

theorem witness_FailedTransactionStopsAfterItsCommand : live.fault = none ∧ seeded.fault = none := by decide

/-- The last clause: a temperature transaction that is not acknowledged. -/
theorem witness_MeasurementCycleNeedsBothTransactions :
    ({ block := live, latest := none } : Session).block.fault = none ∧
      ∀ raw, (transact Config.cmdTemp .noAcknowledge live).1 ≠ .success raw :=
  ⟨rfl, fun _ h => nomatch h⟩

theorem witness_BusRecoveryLeavesTheSoftResetCrc : live.fault = none := by decide

theorem witness_ReferenceDatagramPublishesItsFields :
    Config.wellFormed { cap := 17 } = true ∧ Config.wellFormed { cap := 255 } = true := by decide

/-- A push that does not complete a frame, and one that completes an invalid frame. -/
theorem witness_OnlyValidFramesArePublished :
    ((issue [.fdPush 0xAA#8] live).1 = [0x00000000#32] ∧ resDone 0x00000000#32 = false) ∧
      ((issue [.fdPush 0x00#8] atChecksum).1 = [0x00000001#32] ∧ resOk 0x00000001#32 = false) := by decide

theorem witness_BlocksOfAPlatformAreIndependent :
    Platform.stepAt 1 [live, offered atLength [0x600#12]] =
      some (.next [live, { atLength with ck := 0x16#8, st := .awaitChecksum, res := some 0#32 }]) := rfl

end Sys2Proof.Tests
end

section
/-!
PROOFS. The statements about 00_scope.md (R8, R18, R19), after the layer of facts about single operations that they share:
what every operation answers with, and what it does on a block that agrees with another on one unit.
-/

namespace Sys2Proof.Proofs

open Sys2Proof.Machine Sys2Proof.Laws

/-! ## Bits (R18) -/

theorem getLsbD_mirror8 (b : Byte) {i : Nat} (h : i < 8) : (mirror8 b).getLsbD i = b.getLsbD (7 - i) := by
  simp only [mirror8, BitVec.getLsbD_append, BitVec.getLsbD_ofBool]
  interval_cases i <;> simp

theorem mirror8_mirror8 (b : Byte) : mirror8 (mirror8 b) = b := by
  refine BitVec.eq_of_getLsbD_eq fun i hi => ?_
  calc (mirror8 (mirror8 b)).getLsbD i
      _ = (mirror8 b).getLsbD (7 - i) := getLsbD_mirror8 _ hi
      _ = b.getLsbD (7 - (7 - i)) := getLsbD_mirror8 _ (by omega)
      _ = b.getLsbD i := by rw [show 7 - (7 - i) = i by omega]

/-! ## An operation is its body behind the fault check (R40, R145) -/

/-- What an operation does once the block has accepted it. -/
def body : Instr → State → Answer
  | .nop, s => reply emptyRes s
  | .crcSeed b, s => reply emptyRes (s.seedCrc (mirror8 b))
  | .crcUpd b, s => withCrc (encode (.crcUpd b)) s fun c => reply emptyRes (s.writeCrc (crcStep c b))
  | .crcChk r, s => withCrc (encode (.crcChk r)) s fun c => reply (matchRes (mirror8 r == c)) s
  | .crcRd, s => withCrc (encode .crcRd) s fun c => reply (byteRes c) s
  | .crcRdm, s => withCrc (encode .crcRdm) s fun c => reply (byteRes (mirror8 c)) s
  | .fdPush b, s => reply (pushRes (pushArm b s).2) (pushArm b s).1
  | .fdRdb o, s =>
    inRange (encode (.fdRdb o)) (offset o) (offset o) s
      (withCell (encode (.fdRdb o)) (offset o) s fun b => reply (byteRes b) s)
  | .fdRd16 o, s =>
    inRange (encode (.fdRd16 o)) (offset o) (nextOffset o) s
      (withCell (encode (.fdRd16 o)) (offset o) s fun hi =>
        withCell (encode (.fdRd16 o)) (nextOffset o) s fun lo => reply (fieldRes hi lo) s)
  | .fdStat, s => reply (statRes s) s
  | .rst, s => reply emptyRes s.resetUnits

theorem exec_eq_accept_body (i : Instr) (s : State) : exec i s = accept s (body i) := by
  cases i <;> rfl

theorem exec_next {i : Instr} {s t : State} : exec i s = .next t ↔ s.fault = none ∧ body i s = .next t := by
  rw [exec_eq_accept_body, accept_next]

/-- A block with a recorded fault accepts no operation (R40). -/
theorem exec_stopped {s : State} {r : FaultRecord} (h : s.fault = some r) (i : Instr) :
    exec i s = .fault (.stopped r) := by
  rw [exec_eq_accept_body]
  exact accept_fault.2 (.inl ⟨r, h, rfl⟩)

/-! ## What every operation answers with (R39, R139, R141) -/

/-- The answer of an operation issued on the live block `s`: a next state, with a result when no fault is recorded, and
else `s` itself with the fault recorded. -/
def Completes (s : State) (a : Answer) : Prop :=
  ∃ t, a = .next t ∧ ((t.fault = none ∧ ∃ v, t.res = some v) ∨ ∃ r, t = s.record r)

theorem completes_reply {s u : State} (h : u.fault = none) (v : Res) : Completes s (reply v u) :=
  ⟨u.answer v, rfl, .inl ⟨h, v, rfl⟩⟩

theorem completes_record (s : State) (r : FaultRecord) : Completes s (.next (s.record r)) :=
  ⟨_, rfl, .inr ⟨r, rfl⟩⟩

theorem completes_withCrc {s : State} {w : OpWord} {k : Byte → Answer} (h : ∀ c, Completes s (k c)) :
    Completes s (withCrc w s k) := by
  obtain ⟨-, e⟩ | ⟨-, e⟩ := withCrc_cases w s k <;> rw [e]
  · exact h _
  · exact completes_record s _

theorem completes_inRange {s : State} {w : OpWord} {o top : Nat} {k : Answer} (h : Completes s k) :
    Completes s (inRange w o top s k) := by
  obtain ⟨-, e⟩ | ⟨-, e⟩ := inRange_cases w o top s k <;> rw [e]
  · exact h
  · exact completes_record s _

theorem completes_withCell {s : State} {w : OpWord} {a : Nat} {k : Byte → Answer} (h : ∀ b, Completes s (k b)) :
    Completes s (withCell w a s k) := by
  obtain ⟨b, -, e⟩ | ⟨-, e⟩ := withCell_cases w a s k <;> rw [e]
  · exact h b
  · exact completes_record s _

/-- Every operation on a block that accepts operations completes (R139, R141). -/
theorem exec_completes {s : State} (h : s.fault = none) (i : Instr) : Completes s (exec i s) := by
  rw [exec_eq_accept_body, accept_live h]
  cases i with
  | nop => exact completes_reply h _
  | crcSeed b => exact completes_reply (u := s.seedCrc _) h _
  | crcUpd b => exact completes_withCrc fun c => completes_reply (u := s.writeCrc (crcStep c b)) h _
  | crcChk r => exact completes_withCrc fun _ => completes_reply h _
  | crcRd => exact completes_withCrc fun _ => completes_reply h _
  | crcRdm => exact completes_withCrc fun _ => completes_reply h _
  | fdPush b => exact completes_reply ((pushArm_fault b s).trans h) _
  | fdRdb o => exact completes_inRange (completes_withCell fun _ => completes_reply h _)
  | fdRd16 o => exact completes_inRange (completes_withCell fun _ => completes_withCell fun _ => completes_reply h _)
  | fdStat => exact completes_reply h _
  | rst => exact completes_reply (u := s.resetUnits) h _

/-! ## The CRC unit's operations see and write the CRC unit alone (R8) -/

/-- `s` with the CRC unit, the fault record and the result of `t`. -/
def withCrcUnitOf (s t : State) : State := { s with crc := t.crc, crcv := t.crcv, fault := t.fault, res := t.res }

theorem reply_of_sameCrcUnit {s s' t : State} {v : Res} (hs : s.SameCrcUnit s') (hf : s'.fault = s.fault)
    (h : reply v s = .next t) : reply v s' = .next (withCrcUnitOf s' t) := by
  obtain ⟨hcrc, hcrcv⟩ := hs
  obtain rfl := reply_next.1 h
  simp only [reply, State.answer, withCrcUnitOf, hcrc, hcrcv, ← hf]

theorem raise_of_sameCrcUnit {s s' t : State} {r : FaultRecord} (hs : s.SameCrcUnit s') (h : raise r s = .next t) :
    raise r s' = .next (withCrcUnitOf s' t) := by
  obtain ⟨hcrc, hcrcv⟩ := hs
  obtain rfl := raise_next.1 h
  simp only [raise, State.record, withCrcUnitOf, hcrc, hcrcv]

theorem withCrc_of_sameCrcUnit {s s' t : State} {w : OpWord} {k k' : Byte → Answer} (hs : s.SameCrcUnit s')
    (h : withCrc w s k = .next t) (hk : ∀ c, k c = .next t → k' c = .next (withCrcUnitOf s' t)) :
    withCrc w s' k' = .next (withCrcUnitOf s' t) := by
  unfold withCrc at h ⊢
  rw [← hs.1, ← hs.2]
  cases hv : s.crcv with
  | true => rw [hv] at h; exact hk s.crc h
  | false => rw [hv] at h; exact raise_of_sameCrcUnit hs h

/-- An operation of the CRC unit does on every block with the same CRC unit and fault what it does on `s`, and there it
writes the CRC unit, the fault record and the result only. -/
theorem exec_of_sameCrcUnit {s s' t : State} {i : Instr} (hi : opUnit i = .crcUnit) (hs : s.SameCrcUnit s')
    (hf : s'.fault = s.fault) (h : exec i s = .next t) : exec i s' = .next (withCrcUnitOf s' t) := by
  obtain ⟨live, h⟩ := exec_next.1 h
  refine exec_next.2 ⟨hf.trans live, ?_⟩
  cases i with
  | crcSeed b => exact reply_of_sameCrcUnit (s := s.seedCrc _) (s' := s'.seedCrc _) ⟨rfl, rfl⟩ hf h
  | crcUpd b =>
    rw [body] at h ⊢
    exact withCrc_of_sameCrcUnit hs h fun c =>
      reply_of_sameCrcUnit (s := s.writeCrc (crcStep c b)) (s' := s'.writeCrc (crcStep c b)) ⟨rfl, hs.2⟩ hf
  | crcChk r => rw [body] at h ⊢; exact withCrc_of_sameCrcUnit hs h fun c => reply_of_sameCrcUnit hs hf
  | crcRd => rw [body] at h ⊢; exact withCrc_of_sameCrcUnit hs h fun c => reply_of_sameCrcUnit hs hf
  | crcRdm => rw [body] at h ⊢; exact withCrc_of_sameCrcUnit hs h fun c => reply_of_sameCrcUnit hs hf
  | _ => cases hi

/-- What an operation of the CRC unit leaves unchanged: all but the CRC unit, the fault record and the result. -/
theorem exec_crcUnit_frame {s t : State} {i : Instr} (hi : opUnit i = .crcUnit) (h : exec i s = .next t) :
    t = withCrcUnitOf s t :=
  Host.Outcome.next.inj (h.symm.trans (exec_of_sameCrcUnit hi ⟨rfl, rfl⟩ rfl h))

/-! ## The frame decoder's operations see and write the frame decoder alone (R8) -/

/-- `s` with the frame decoder's registers and buffer, the fault record and the result of `t`. -/
def withFrameDecoderOf (s t : State) : State :=
  { s with st := t.st, ck := t.ck, len := t.len, idx := t.idx, buf := t.buf, fault := t.fault, res := t.res }

theorem reply_of_sameFrameDecoder {s s' t : State} {v : Res} (hs : s.SameFrameDecoder s') (hf : s'.fault = s.fault)
    (h : reply v s = .next t) : reply v s' = .next (withFrameDecoderOf s' t) := by
  obtain ⟨-, hst, hck, hlen, hidx, hbuf⟩ := hs
  obtain rfl := reply_next.1 h
  simp only [reply, State.answer, withFrameDecoderOf, hst, hck, hlen, hidx, hbuf, ← hf]

theorem raise_of_sameFrameDecoder {s s' t : State} {r : FaultRecord} (hs : s.SameFrameDecoder s')
    (h : raise r s = .next t) : raise r s' = .next (withFrameDecoderOf s' t) := by
  obtain ⟨-, hst, hck, hlen, hidx, hbuf⟩ := hs
  obtain rfl := raise_next.1 h
  simp only [raise, State.record, withFrameDecoderOf, hst, hck, hlen, hidx, hbuf]

theorem inRange_of_sameFrameDecoder {s s' t : State} {w : OpWord} {o top : Nat} {k k' : Answer}
    (hs : s.SameFrameDecoder s') (hk : k = .next t → k' = .next (withFrameDecoderOf s' t))
    (h : inRange w o top s k = .next t) : inRange w o top s' k' = .next (withFrameDecoderOf s' t) := by
  unfold inRange at h ⊢
  rw [← hs.1]
  by_cases hr : s.config.cap ≤ top
  · rw [if_pos hr] at h ⊢
    exact raise_of_sameFrameDecoder hs h
  · rw [if_neg hr] at h ⊢
    exact hk h

theorem withCell_of_sameFrameDecoder {s s' t : State} {w : OpWord} {a : Nat} {k k' : Byte → Answer}
    (hs : s.SameFrameDecoder s') (hk : ∀ b, k b = .next t → k' b = .next (withFrameDecoderOf s' t))
    (h : withCell w a s k = .next t) : withCell w a s' k' = .next (withFrameDecoderOf s' t) := by
  obtain ⟨-, -, -, -, -, hbuf⟩ := id hs
  unfold withCell at h ⊢
  rw [← hbuf]
  cases hr : Memory.read s.buf a with
  | some b => rw [hr] at h; exact hk b h
  | none => rw [hr] at h; exact raise_of_sameFrameDecoder hs h

/-- The arms of `FD.PUSH` raise the same signals and write the same decoder whatever the rest of the block holds. -/
theorem pushArm_of_sameFrameDecoder {s s' : State} (b : Byte) (hs : s.SameFrameDecoder s') :
    (pushArm b s).2 = (pushArm b s').2 ∧ (pushArm b s).1.SameFrameDecoder (pushArm b s').1 := by
  obtain ⟨hcfg, hst, hck, hlen, hidx, hbuf⟩ := hs
  unfold pushArm State.SameFrameDecoder
  rw [← hst]
  cases s.st with
  | awaitHeader => simp [pushHeader, hcfg, hlen, hidx, hbuf]
  | awaitLength =>
    simp only [pushLength, hcfg, hck]
    split <;> simp [hlen, hidx, hbuf]
  | accumulatePayload => simp [pushPayload, hcfg, hck, hlen, hidx, hbuf]
  | awaitChecksum => simp [pushChecksum, hcfg, hck, hlen, hidx, hbuf]

theorem statRes_of_sameFrameDecoder {s s' : State} (hs : s.SameFrameDecoder s') : statRes s = statRes s' := by
  obtain ⟨-, hst, hck, hlen, hidx, -⟩ := hs
  simp only [statRes, hst, hck, hlen, hidx]

/-- An arm of `FD.PUSH` changes nothing that `withFrameDecoderOf` does not replace. -/
theorem withFrameDecoderOf_pushArm (b : Byte) (s t : State) :
    withFrameDecoderOf (pushArm b s).1 t = withFrameDecoderOf s t := by
  rw [pushArm_frame]
  rfl

/-- An operation of the frame decoder does on every block with the same decoder and fault what it does on `s`, and there it
writes the decoder, the fault record and the result only. -/
theorem exec_of_sameFrameDecoder {s s' t : State} {i : Instr} (hi : opUnit i = .frameDecoder)
    (hs : s.SameFrameDecoder s') (hf : s'.fault = s.fault) (h : exec i s = .next t) :
    exec i s' = .next (withFrameDecoderOf s' t) := by
  obtain ⟨live, h⟩ := exec_next.1 h
  refine exec_next.2 ⟨hf.trans live, ?_⟩
  cases i with
  | fdPush b =>
    obtain ⟨hsig, hdec⟩ := pushArm_of_sameFrameDecoder b hs
    have hfault : (pushArm b s').1.fault = (pushArm b s).1.fault := by rw [pushArm_fault, pushArm_fault, hf]
    have := reply_of_sameFrameDecoder hdec hfault h
    rwa [hsig, withFrameDecoderOf_pushArm] at this
  | fdRdb o =>
    exact inRange_of_sameFrameDecoder hs
      (withCell_of_sameFrameDecoder hs fun _ => reply_of_sameFrameDecoder hs hf) h
  | fdRd16 o =>
    exact inRange_of_sameFrameDecoder hs
      (withCell_of_sameFrameDecoder hs fun _ =>
        withCell_of_sameFrameDecoder hs fun _ => reply_of_sameFrameDecoder hs hf) h
  | fdStat =>
    have := reply_of_sameFrameDecoder hs hf h
    rwa [statRes_of_sameFrameDecoder hs] at this
  | _ => cases hi

/-- What an operation of the frame decoder leaves unchanged: all but the decoder, the fault record and the result. -/
theorem exec_frameDecoder_frame {s t : State} {i : Instr} (hi : opUnit i = .frameDecoder) (h : exec i s = .next t) :
    t = withFrameDecoderOf s t :=
  Host.Outcome.next.inj (h.symm.trans (exec_of_sameFrameDecoder hi ⟨rfl, rfl, rfl, rfl, rfl, rfl⟩ rfl h))

/-! ## No operation sees the words that wait on the port (R38) -/

/-- An operation does the same whatever waits on the port, and leaves the port as it is. -/
theorem exec_withPort {i : Instr} {s t : State} (h : exec i s = .next t) (ws : List OpWord) :
    exec i { s with port := ws } = .next { t with port := ws } := by
  cases hi : opUnit i with
  | crcUnit =>
    rw [exec_crcUnit_frame hi h]
    exact exec_of_sameCrcUnit (s := s) (t := t) hi ⟨rfl, rfl⟩ rfl h
  | frameDecoder =>
    rw [exec_frameDecoder_frame hi h]
    exact exec_of_sameFrameDecoder (s := s) (t := t) hi ⟨rfl, rfl, rfl, rfl, rfl, rfl⟩ rfl h
  | whole =>
    obtain ⟨live, h⟩ := exec_next.1 h
    refine exec_next.2 ⟨live, ?_⟩
    cases i with
    | nop => cases h; rfl
    | rst => cases h; rfl
    | _ => cases hi

theorem decode_encode (i : Instr) : decode (encode i) = .instr i := by
  cases i <;> simp [encode, decode, decodeMustBeZero]

/-- A step that is offered an operation's word performs the operation (R38). -/
theorem step_of_encode {i : Instr} {s : State} {rest : List OpWord} (h : s.port = encode i :: rest) :
    step s = exec i { s with port := rest } := by
  simp only [step, fetch, h, decode_encode]

/-! ## Runs (R19) -/

/-- On a block with a recorded fault, none of the operations that are left is performed (R40). -/
theorem issue_stopped {s : State} {r : FaultRecord} (h : s.fault = some r) (is : List Instr) : issue is s = ([], s) := by
  cases is with
  | nil => rfl
  | cons i is => rw [issue, exec_stopped h]

/-- A fault is never cleared: a run that ends without one began without one (R40, R148). -/
theorem fault_of_issue_fault {s : State} {is : List Instr} (h : (issue is s).2.fault = none) : s.fault = none := by
  cases hf : s.fault with
  | none => rfl
  | some r => rwa [issue_stopped hf, hf] at h

/-- Steps through the offered words of a list of operations follow `issue`, whatever else `s` has on its port. -/
theorem trace_of_offered (is : List Instr) (rest : List OpWord) (s : State) (h : (issue is s).2.fault = none) :
    trace is.length { s with port := is.map encode ++ rest } =
        ((issue is s).1, { (issue is s).2 with port := rest }) ∧
      (issue is s).1.length = is.length := by
  induction is generalizing s with
  | nil => exact ⟨rfl, rfl⟩
  | cons i is ih =>
    obtain ⟨t, hexec, ht⟩ := exec_completes (fault_of_issue_fault h) i
    have hstep : step { s with port := (i :: is).map encode ++ rest } =
        .next { t with port := is.map encode ++ rest } :=
      (step_of_encode rfl).trans (exec_withPort hexec _)
    rw [issue_cons_next hexec] at h ⊢
    obtain ⟨htrace, hlen⟩ := ih t h
    refine ⟨by rw [List.length_cons, trace_succ_next hstep, htrace], ?_⟩
    obtain ⟨-, v, hv⟩ | ⟨r, rfl⟩ := ht
    · simp [hv, hlen]
    · cases fault_of_issue_fault h

/-! ## The statements -/

/-- Settles O34: both halves are read off the next state that `exec_of_sameCrcUnit` and `exec_of_sameFrameDecoder` give, the
writing half with the block itself as the other block. -/
theorem unitsShareNoState : Obligations.UnitsShareNoState := by
  intro i s t h
  constructor
  · intro hi
    have frame : s.SameFrameDecoder t := by
      rw [exec_crcUnit_frame hi h]
      exact ⟨rfl, rfl, rfl, rfl, rfl, rfl⟩
    exact ⟨frame, fun s' hf hs => ⟨_, exec_of_sameCrcUnit hi hs hf h, ⟨rfl, rfl⟩, rfl, rfl⟩⟩
  · intro hi
    have frame : t = withFrameDecoderOf s t := exec_frameDecoder_frame hi h
    have sameCrc : s.SameCrcUnit t := by
      rw [frame]
      exact ⟨rfl, rfl⟩
    have sameConfig : t.config = s.config := by
      rw [frame]
      rfl
    exact ⟨sameCrc, fun s' hf hs =>
      ⟨_, exec_of_sameFrameDecoder hi hs hf h, ⟨sameConfig.trans hs.1, rfl, rfl, rfl, rfl, rfl⟩, rfl, rfl⟩⟩

/-- Settles O50, by induction on the operations. -/
theorem stepsRunTheOfferedOperations : Obligations.StepsRunTheOfferedOperations := by
  intro is rest s _ hport h
  have := trace_of_offered is rest s h
  rwa [← hport] at this

/-- Settles O2: the model's choices, by the definition of the reset state. -/
theorem resetIsPowerOnAtReferenceCapacity : Obligations.ResetIsPowerOnAtReferenceCapacity :=
  ⟨rfl, rfl, rfl, rfl⟩

/-- Settles O14. -/
theorem mirrorReversesTheBits : Obligations.MirrorReversesTheBits :=
  fun b => ⟨fun _ h => getLsbD_mirror8 b h, mirror8_mirror8 b⟩

end Sys2Proof.Proofs
end

section
/-!
PROOFS. The statements about 10_state.md: the command port and the recorded fault (R38, R40), what each operation may write of
the frame decoder (R32, R33, R36), the two units in either order (R41), `FD.PUSH` without faults (R44) and platforms (R47).
-/

namespace Sys2Proof.Proofs

open Sys2Proof.Machine Sys2Proof.Laws

/-! ## The command port (R38, R40) -/

/-- A block that accepts the word of an operation runs the operation with the word taken off (R38). -/
theorem step_of_decode {s : State} {w : OpWord} {rest : List OpWord} {i : Instr} (hport : s.port = w :: rest)
    (hdec : decode w = .instr i) : step s = exec i { s with port := rest } := by
  simp only [step, fetch, hport, hdec]

/-- What a step does with a reserved word (R79, R80). -/
theorem step_of_reserved {s : State} {w : OpWord} {rest : List OpWord} {why : Reserved} (hport : s.port = w :: rest)
    (hdec : decode w = .reserved why) : step s = rejectReserved w { s with port := rest } := by
  simp only [step, fetch, hport, hdec]

/-- What a step does where no word is offered (R174). -/
theorem step_of_empty_port {s : State} (hport : s.port = []) : step s = idle s := by
  simp only [step, fetch, hport]

/-- A block with a recorded fault takes no step (R40). -/
theorem step_stopped {s : State} {r : FaultRecord} (h : s.fault = some r) : step s = .fault (.stopped r) := by
  cases hport : s.port with
  | nil =>
    rw [step_of_empty_port hport]
    exact accept_fault.2 (.inl ⟨r, h, rfl⟩)
  | cons w rest =>
    cases hdec : decode w with
    | instr i =>
      rw [step_of_decode hport hdec]
      exact exec_stopped (s := { s with port := rest }) h i
    | reserved why =>
      rw [step_of_reserved hport hdec]
      exact accept_fault.2 (.inl ⟨r, h, rfl⟩)

/-- What the port does with an operation whose operand is the whole `DATA` field follows from its encoding (R75, R76). -/
theorem dataIsOperand_of_encode {op : BitVec 4} {f : Byte → Instr} (h : ∀ d, encode (f d) = opWord op d) :
    DataIsOperand op f :=
  fun d => ⟨h d, fun _ _ hport => step_of_encode (hport.trans (by rw [h d]))⟩

/-! ## The operations that only read (R57) -/

/-- The answer of an operation that writes nothing of `s` but its result, or the fault it records. -/
def OnlyReads (s : State) (a : Answer) : Prop :=
  (∃ v, a = .next (s.answer v)) ∨ ∃ r, a = .next (s.record r)

theorem onlyReads_reply (s : State) (v : Res) : OnlyReads s (reply v s) := .inl ⟨v, rfl⟩

theorem onlyReads_withCrc {s : State} {w : OpWord} {k : Byte → Answer} (h : ∀ c, OnlyReads s (k c)) :
    OnlyReads s (withCrc w s k) := by
  obtain ⟨-, e⟩ | ⟨-, e⟩ := withCrc_cases w s k
  · rw [e]
    exact h _
  · exact .inr ⟨_, e⟩

theorem onlyReads_inRange {s : State} {w : OpWord} {o top : Nat} {k : Answer} (h : OnlyReads s k) :
    OnlyReads s (inRange w o top s k) := by
  obtain ⟨-, e⟩ | ⟨-, e⟩ := inRange_cases w o top s k
  · rwa [e]
  · exact .inr ⟨_, e⟩

theorem onlyReads_withCell {s : State} {w : OpWord} {a : Nat} {k : Byte → Answer} (h : ∀ b, OnlyReads s (k b)) :
    OnlyReads s (withCell w a s k) := by
  obtain ⟨b, -, e⟩ | ⟨-, e⟩ := withCell_cases w a s k
  · rw [e]
    exact h b
  · exact .inr ⟨_, e⟩

/-- The operations that change no state answer with a result or a recorded fault (R57). -/
theorem exec_onlyReads {s : State} {i : Instr} (hi : readsOnly i = true) (live : s.fault = none) :
    OnlyReads s (exec i s) := by
  rw [exec_eq_accept_body, accept_live live]
  cases i with
  | nop => exact onlyReads_reply s _
  | crcChk r => exact onlyReads_withCrc fun _ => onlyReads_reply s _
  | crcRd => exact onlyReads_withCrc fun _ => onlyReads_reply s _
  | crcRdm => exact onlyReads_withCrc fun _ => onlyReads_reply s _
  | fdRdb o => exact onlyReads_inRange (onlyReads_withCell fun _ => onlyReads_reply s _)
  | fdRd16 o => exact onlyReads_inRange (onlyReads_withCell fun _ => onlyReads_withCell fun _ => onlyReads_reply s _)
  | fdStat => exact onlyReads_reply s _
  | _ => cases hi

/-! ## What an operation and a step may write of the frame decoder -/

theorem sameFrameDecoder_symm {s t : State} (h : s.SameFrameDecoder t) : t.SameFrameDecoder s := by
  obtain ⟨hcfg, hst, hck, hlen, hidx, hbuf⟩ := h
  exact ⟨hcfg.symm, hst.symm, hck.symm, hlen.symm, hidx.symm, hbuf.symm⟩

theorem sameFrameDecoder_trans {s t u : State} (h : s.SameFrameDecoder t) (h' : t.SameFrameDecoder u) :
    s.SameFrameDecoder u := by
  obtain ⟨hcfg, hst, hck, hlen, hidx, hbuf⟩ := h
  obtain ⟨hcfg', hst', hck', hlen', hidx', hbuf'⟩ := h'
  exact ⟨hcfg.trans hcfg', hst.trans hst', hck.trans hck', hlen.trans hlen', hidx.trans hidx', hbuf.trans hbuf'⟩

theorem exec_sameFrameDecoder_of_readsOnly {s t : State} {i : Instr} (hi : readsOnly i = true) (h : exec i s = .next t) :
    s.SameFrameDecoder t := by
  obtain ⟨live, -⟩ := exec_next.1 h
  obtain ⟨v, e⟩ | ⟨r, e⟩ := exec_onlyReads hi live <;>
  · cases h.symm.trans e
    exact ⟨rfl, rfl, rfl, rfl, rfl, rfl⟩

theorem exec_sameFrameDecoder_of_crcUnit {s t : State} {i : Instr} (hi : opUnit i = .crcUnit) (h : exec i s = .next t) :
    s.SameFrameDecoder t :=
  (unitsShareNoState i s t h).1 hi |>.1

/-- All that an operation can do to the frame decoder: nothing, the selected arm of a push, or the reset values. -/
theorem exec_frameDecoder_cases {i : Instr} {s t : State} (h : exec i s = .next t) :
    s.SameFrameDecoder t ∨ (∃ b, i = .fdPush b ∧ (pushArm b s).1.SameFrameDecoder t) ∨
      (i = .rst ∧ s.resetUnits.SameFrameDecoder t) := by
  cases i with
  | crcSeed b => exact .inl (exec_sameFrameDecoder_of_crcUnit rfl h)
  | crcUpd b => exact .inl (exec_sameFrameDecoder_of_crcUnit rfl h)
  | fdPush b =>
    obtain ⟨-, h⟩ := exec_next.1 h
    obtain rfl := reply_next.1 h
    exact .inr (.inl ⟨b, rfl, rfl, rfl, rfl, rfl, rfl, rfl⟩)
  | rst =>
    obtain ⟨-, h⟩ := exec_next.1 h
    obtain rfl := reply_next.1 h
    exact .inr (.inr ⟨rfl, rfl, rfl, rfl, rfl, rfl, rfl⟩)
  | _ => exact .inl (exec_sameFrameDecoder_of_readsOnly rfl h)

/-- All that a step can do to the frame decoder. -/
theorem step_frameDecoder_cases {s t : State} (h : step s = .next t) :
    s.SameFrameDecoder t ∨ (∃ b, (pushArm b s).1.SameFrameDecoder t) ∨ s.resetUnits.SameFrameDecoder t := by
  obtain ⟨-, -, rfl⟩ | ⟨w, rest, why, -, -, -, rfl⟩ | ⟨w, rest, i, -, -, hexec⟩ := step_next h
  · exact .inl ⟨rfl, rfl, rfl, rfl, rfl, rfl⟩
  · exact .inl ⟨rfl, rfl, rfl, rfl, rfl, rfl⟩
  · obtain hsame | ⟨b, -, hpush⟩ | ⟨-, hrst⟩ := exec_frameDecoder_cases hexec
    · exact .inl hsame
    · have hport : s.SameFrameDecoder { s with port := rest } := ⟨rfl, rfl, rfl, rfl, rfl, rfl⟩
      exact .inr (.inl ⟨b, sameFrameDecoder_trans (pushArm_of_sameFrameDecoder b hport).2 hpush⟩)
    · exact .inr (.inr hrst)

/-! ## The invariant of R32 -/

/-- The invariant speaks of the frame decoder alone. -/
theorem inv_of_sameFrameDecoder {s t : State} (hs : s.SameFrameDecoder t) (h : s.Inv) : t.Inv := by
  obtain ⟨hcfg, hst, -, hlen, hidx, hbuf⟩ := hs
  unfold State.Inv at h ⊢
  rwa [← hcfg, ← hst, ← hlen, ← hidx, ← hbuf]

theorem inv_resetUnits {s : State} (h : s.Inv) : s.resetUnits.Inv := by
  obtain ⟨hcfg, -⟩ := h
  exact ⟨hcfg, rfl, rfl, Nat.le_refl _, Nat.zero_le _, nofun, nofun⟩

/-- The invariant asks of `AWAIT_HEADER` and `AWAIT_LENGTH` only what it asks of every decoder state. -/
theorem inv_with_seeking {s : State} (ck : Byte) {d : DecoderState} (h : s.Inv)
    (hd : d = .awaitHeader ∨ d = .awaitLength) : ({ s with ck := ck, st := d } : State).Inv := by
  obtain ⟨hcfg, hwf, hin, hidx, hlen, -, -⟩ := h
  refine ⟨hcfg, hwf, hin, hidx, hlen, ?_, ?_⟩ <;> rcases hd with rfl | rfl <;> exact nofun

theorem inv_pushLength (b : Byte) {s : State} (h : s.Inv) : (pushLength b s).1.Inv := by
  unfold pushLength
  split
  case isTrue hb =>
    obtain ⟨hcfg, hwf, hin, -, -, -, -⟩ := h
    refine ⟨hcfg, hwf, hin, Nat.zero_le _, hb, ?_, ?_⟩ <;> simp only
    · intro hst
      have hne : b ≠ 0x00#8 := fun hz => by simp [hz] at hst
      exact BitVec.toNat_pos_of_ne_zero hne
    · intro hst
      by_contra hne
      simp [Ne.symm hne] at hst
  case isFalse => exact inv_with_seeking _ h (.inl rfl)

/-- A payload byte is stored at `IDX < LEN`, so the advanced index does not wrap and stays within `LEN`. -/
theorem inv_pushPayload (b : Byte) {s : State} (h : s.Inv) (hst : s.st = .accumulatePayload) :
    (pushPayload b s).1.Inv := by
  obtain ⟨hcfg, hwf, hin, -, hlen, hlt, -⟩ := h
  have hnext : (s.idx + 1#8).toNat = s.idx.toNat + 1 := toNat_add_one (hlt hst)
  have hle : (s.idx + 1#8).toNat ≤ s.len.toNat := by rw [hnext]; exact hlt hst
  refine ⟨hcfg, write_wf hwf, write_within hin, hle, hlen, ?_, ?_⟩ <;> simp only [pushPayload]
  · intro h
    have hne : s.idx + 1#8 ≠ s.len := fun he => by simp [he] at h
    exact Nat.lt_of_le_of_ne hle fun he => hne (BitVec.eq_of_toNat_eq he)
  · intro h
    by_contra hne
    simp [hne] at h

/-- Every arm of `FD.PUSH` keeps the invariant. -/
theorem inv_pushArm (b : Byte) {s : State} (h : s.Inv) : (pushArm b s).1.Inv := by
  unfold pushArm
  cases hst : s.st with
  | awaitHeader =>
    refine inv_with_seeking b h ?_
    split
    · exact .inr rfl
    · exact .inl rfl
  | awaitLength => exact inv_pushLength b h
  | accumulatePayload => exact inv_pushPayload b h hst
  | awaitChecksum => exact inv_with_seeking _ h (.inl rfl)

/-! ## The signals of `FD.PUSH` (R44, R107) -/

/-- All that a push can report: a completed frame, an overflow, or nothing. -/
theorem pushArm_signals (b : Byte) (s : State) :
    (s.st = .awaitChecksum ∧ ∃ ok, (pushArm b s).2 = { done := true, ok := ok, ovf := false }) ∨
      ((s.st = .awaitLength ∧ s.config.cap < b.toNat) ∧ (pushArm b s).2 = { done := false, ok := false, ovf := true }) ∨
      (s.st ≠ .awaitChecksum ∧ ¬ (s.st = .awaitLength ∧ s.config.cap < b.toNat) ∧ (pushArm b s).2 = .quiet) := by
  unfold pushArm
  cases hst : s.st with
  | awaitHeader => exact .inr (.inr ⟨nofun, nofun, rfl⟩)
  | awaitLength =>
    by_cases hb : b.toNat ≤ s.config.cap
    · exact .inr (.inr ⟨nofun, fun ⟨_, hlt⟩ => absurd hb (Nat.not_le.2 hlt), by simp only [pushLength, if_pos hb]⟩)
    · exact .inr (.inl ⟨⟨rfl, Nat.not_le.1 hb⟩, by simp only [pushLength, if_neg hb, Signals.quiet]⟩)
  | accumulatePayload => exact .inr (.inr ⟨nofun, nofun, rfl⟩)
  | awaitChecksum => exact .inl ⟨rfl, _, rfl⟩

/-! ## The two units in either order (R41) -/

/-- A run that shows a first result ran its first operation without a fault, and shows the others after it. -/
theorem issue_cons_results {i : Instr} {is : List Instr} {s : State} {a : Res} {rs : List Res}
    (h : (issue (i :: is) s).1 = a :: rs) :
    ∃ t, exec i s = .next t ∧ t.fault = none ∧ t.res = some a ∧ (issue is t).1 = rs ∧
      (issue (i :: is) s).2 = (issue is t).2 := by
  cases live : s.fault with
  | some r =>
    rw [issue_stopped live] at h
    cases h
  | none =>
    obtain ⟨t, hexec, ⟨ht, v, hv⟩ | ⟨r, rfl⟩⟩ := exec_completes live i
    · rw [issue_cons_next hexec, hv] at h
      obtain ⟨rfl, hrs⟩ := List.cons.inj h
      exact ⟨t, hexec, ht, hv, hrs, by rw [issue_cons_next hexec]⟩
    · rw [issue_cons_next hexec, issue_stopped (record_fault s r)] at h
      cases h

/-- An operation of the frame decoder after one of the CRC unit: in the other order both do the same, the decoder's
operation on `s` and then the CRC unit's on the block that it leaves. -/
theorem exec_units_swap {i j : Instr} {s t u : State} (hi : opUnit i = .crcUnit) (hj : opUnit j = .frameDecoder)
    (hit : exec i s = .next t) (hju : exec j t = .next u) (hu : u.fault = none) :
    exec j s = .next (withFrameDecoderOf s u) ∧
      exec i (withFrameDecoderOf s u) = .next (withCrcUnitOf (withFrameDecoderOf s u) t) := by
  obtain ⟨hs, -⟩ := exec_next.1 hit
  obtain ⟨ht, -⟩ := exec_next.1 hju
  have hts : t.SameFrameDecoder s := sameFrameDecoder_symm (exec_sameFrameDecoder_of_crcUnit hi hit)
  exact ⟨exec_of_sameFrameDecoder hj hts (hs.trans ht.symm) hju,
    exec_of_sameCrcUnit (s := s) hi ⟨rfl, rfl⟩ (hu.trans hs.symm) hit⟩

/-- Either order of the two units writes the same state, but for the result of the operation that came last. -/
theorem withCrcUnitOf_withFrameDecoderOf_swap {s t u : State} (ht : t = withCrcUnitOf s t)
    (hu : u = withFrameDecoderOf t u) (hf : t.fault = u.fault) :
    { withCrcUnitOf (withFrameDecoderOf s u) t with res := none } = { u with res := none } := by
  rw [hu, ht]
  simp only [withCrcUnitOf, withFrameDecoderOf, hf]

/-! ## Platforms (R47) -/

/-- What a step at one port of a platform answers with a next platform. -/
theorem stepAt_next {p q : Platform} {k : Nat} (h : Platform.stepAt k p = some (.next q)) :
    ∃ s t, p[k]? = some s ∧ step s = .next t ∧ q = p.set k t := by
  unfold Platform.stepAt at h
  cases hk : p[k]? with
  | none => simp [hk] at h
  | some s =>
    cases hstep : step s with
    | next t =>
      simp only [hk, hstep, Option.some.injEq, Host.Outcome.next.injEq] at h
      exact ⟨s, t, rfl, hstep, h.symm⟩
    | fault r => simp [hk, hstep] at h
    | refused r => simp [hk, hstep] at h

/-! ## The statements -/

/-- Settles O41: a step keeps the decoder, runs an arm of `FD.PUSH` on it or resets it, and each keeps the invariant. -/
theorem everyStepKeepsTheDecoderInvariant : Obligations.EveryStepKeepsTheDecoderInvariant := by
  intro s t hinv h
  obtain hsame | ⟨b, hpush⟩ | hrst := step_frameDecoder_cases h
  · exact inv_of_sameFrameDecoder hsame hinv
  · exact inv_of_sameFrameDecoder hpush (inv_pushArm b hinv)
  · exact inv_of_sameFrameDecoder hrst (inv_resetUnits hinv)

/-- Settles O25: a push replies with the signals of its arm, whose three kinds `pushArm_signals` tells apart. -/
theorem pushNeverFaultsAndReportsOneOutcome : Obligations.PushNeverFaultsAndReportsOneOutcome := by
  refine ⟨dataIsOperand_of_encode fun _ => rfl, fun b s live => ?_⟩
  refine ⟨_, _, execFdPush_live live b, (pushArm_fault b s).trans live, rfl, ?_⟩
  obtain ⟨hst, ok, e⟩ | ⟨hovf, e⟩ | ⟨hst, hovf, e⟩ := pushArm_signals b s <;> rw [e]
  · rw [hst]
    cases ok <;> simp [pushRes, resDone, resOvf]
  · simp [pushRes, resDone, resOvf, hovf]
  · simp [resDone, resOvf, hst, hovf]

/-- Settles O27: of the operations, a push and `RST` alone write the decoder, and only the payload arm of a push stores. -/
theorem onlyPushWritesTheBufferAndOnlyAtIdx : Obligations.OnlyPushWritesTheBufferAndOnlyAtIdx := by
  intro i s t a h hread
  obtain ⟨-, -, -, -, -, hbuf⟩ | ⟨b, hi, -, -, -, -, -, hbuf⟩ | ⟨hi, -⟩ := exec_frameDecoder_cases h
  · exact absurd (by rw [hbuf]) hread
  · rw [← hbuf] at hread ⊢
    obtain ⟨hst, e⟩ | ⟨-, e⟩ := pushArm_buf b s
    · rw [e, read_write] at hread ⊢
      by_cases hcell : a = s.idx.toNat ∧ s.idx.toNat < s.config.cap
      · obtain ⟨rfl, hcap⟩ := hcell
        exact .inr ⟨b, hi, hst, rfl, hcap, by simp [hcap]⟩
      · exact absurd (if_neg hcell) hread
    · exact absurd (by rw [e]) hread
  · exact .inl hi

/-- Settles O35: the run's two operations are taken apart, swapped by `exec_units_swap`, and put together again. -/
theorem unitsInterleaveInAnyOrder : Obligations.UnitsInterleaveInAnyOrder := by
  intro i j s a b hi hj h
  obtain ⟨t, hit, htf, hta, h', hend⟩ := issue_cons_results h
  obtain ⟨u, hju, huf, hub, -, hend'⟩ := issue_cons_results h'
  obtain ⟨hjs, his⟩ := exec_units_swap hi hj hit hju huf
  have hstate := withCrcUnitOf_withFrameDecoderOf_swap (exec_crcUnit_frame hi hit) (exec_frameDecoder_frame hj hju)
    (htf.trans huf.symm)
  rw [hend, hend', issue_cons_next hjs, issue_cons_next his]
  refine ⟨?_, hstate⟩
  simp [withFrameDecoderOf, withCrcUnitOf, hta, hub]

/-- Settles O3. -/
theorem stepRunsTheDecodedWord : Obligations.StepRunsTheDecodedWord :=
  fun _ _ _ _ => step_of_decode

/-- Settles O6. -/
theorem recordedFaultStopsTheBlock : Obligations.RecordedFaultStopsTheBlock :=
  fun _ _ h => ⟨step_stopped h, exec_stopped h⟩

/-- Settles O36: neither an arm of `FD.PUSH` nor the reset values touch the parameters. -/
theorem noStepChangesTheCapacity : Obligations.NoStepChangesTheCapacity := by
  intro s t h
  obtain ⟨hcfg, -⟩ | ⟨b, hcfg, -⟩ | ⟨hcfg, -⟩ := step_frameDecoder_cases h
  · exact hcfg.symm
  · exact hcfg.symm.trans (pushArm_config b s)
  · exact hcfg.symm

/-- Settles O56: the step replaces the block at its port, and the list of blocks nowhere else. -/
theorem blocksOfAPlatformAreIndependent : Obligations.BlocksOfAPlatformAreIndependent := by
  intro p q k h
  obtain ⟨s, t, hk, hstep, rfl⟩ := stepAt_next h
  obtain ⟨hlt, -⟩ := List.getElem?_eq_some_iff.1 hk
  exact ⟨List.length_set, fun j hj => List.getElem?_set_ne (Ne.symm hj), s, t, hk, hstep, List.getElem?_set_self hlt⟩

end Sys2Proof.Proofs
end

section
/-!
PROOFS. The statements about 20_memory.md: the two bytes of a field (R53), and the operations that only read (R57).
-/

namespace Sys2Proof.Proofs

open Sys2Proof.Machine Sys2Proof.Laws

/-! ## The answers of the buffer reads that record no fault (R113, R114) -/

/-- A range check lets a result through exactly when the cells lie within the capacity (R139). -/
theorem inRange_answer {w : OpWord} {o top : Nat} {s t : State} {k : Answer} (ht : t.fault = none) :
    inRange w o top s k = .next t ↔ top < s.config.cap ∧ k = .next t := by
  obtain ⟨hin, e⟩ | ⟨hout, e⟩ := inRange_cases w o top s k <;> rw [e]
  · simp only [hin, true_and]
  · refine ⟨fun h => ?_, fun ⟨hin, _⟩ => absurd hin (Nat.not_lt.2 hout)⟩
    cases h
    cases ht

/-- The read of a cell lets a result through exactly when the cell has a value (R34). -/
theorem withCell_answer {w : OpWord} {a : Nat} {s t : State} {k : Byte → Answer} (ht : t.fault = none) :
    withCell w a s k = .next t ↔ ∃ b, Memory.read s.buf a = some b ∧ k b = .next t := by
  obtain ⟨b, hb, e⟩ | ⟨hnone, e⟩ := withCell_cases w a s k <;> rw [e]
  · simp only [hb, Option.some.injEq, exists_eq_left']
  · refine ⟨fun h => ?_, fun ⟨_, hb, _⟩ => absurd (hnone.symm.trans hb) nofun⟩
    cases h
    cases ht

theorem reply_eq_next_answer {s : State} {v v' : Res} : reply v s = .next (s.answer v') ↔ v' = v := by
  refine reply_next.trans ⟨fun h => ?_, fun h => h ▸ rfl⟩
  exact Option.some.inj (congrArg State.res h)

/-- `FD.RDB o` answers with a result exactly when the cell lies within the capacity and has a value (R113). -/
theorem exec_fdRdb_answer {s : State} (live : s.fault = none) (o : Byte) (v : Res) :
    exec (.fdRdb o) s = .next (s.answer v) ↔
      o.toNat < s.config.cap ∧ ∃ b, Memory.read s.buf o.toNat = some b ∧ v = byteRes b := by
  have hfault : (s.answer v).fault = none := live
  simp only [exec_next, live, true_and, body, inRange_answer hfault, withCell_answer hfault, reply_eq_next_answer,
    offset_eq]

/-- `FD.RD16 o` answers with a result exactly when both its cells lie within the capacity and have values (R114). -/
theorem exec_fdRd16_answer {s : State} (live : s.fault = none) (o : Byte) (v : Res) :
    exec (.fdRd16 o) s = .next (s.answer v) ↔
      o.toNat + 1 < s.config.cap ∧ ∃ hi, Memory.read s.buf o.toNat = some hi ∧
        ∃ lo, Memory.read s.buf (o.toNat + 1) = some lo ∧ v = fieldRes hi lo := by
  have hfault : (s.answer v).fault = none := live
  simp only [exec_next, live, true_and, body, inRange_answer hfault, withCell_answer hfault, reply_eq_next_answer,
    offset_eq, nextOffset_eq]

/-- A result is a field exactly when its value is the field's big-endian value (R50). -/
theorem eq_fieldRes_iff {v : Res} {hi lo : Byte} : v = fieldRes hi lo ↔ v.toNat = hi.toNat * 256 + lo.toNat := by
  rw [← toNat_fieldRes, BitVec.toNat_inj]

/-! ## A read issued again (R57) -/

/-- What an operation that only reads leaves unchanged: all but the fault record and the result. -/
theorem exec_readsOnly_frame {i : Instr} {s t : State} (hi : readsOnly i = true) (h : exec i s = .next t) :
    t = { s with fault := t.fault, res := t.res } := by
  obtain ⟨live, -⟩ := exec_next.1 h
  obtain ⟨v, e⟩ | ⟨r, e⟩ := exec_onlyReads hi live <;>
  · cases h.symm.trans e
    rfl

/-- An operation that only reads leaves its unit as it was, and so answers the same when it is issued again. -/
theorem exec_again_of_readsOnly {i : Instr} {s t : State} (hi : readsOnly i = true) (h : exec i s = .next t)
    (ht : t.fault = none) : exec i t = .next t := by
  obtain ⟨live, -⟩ := exec_next.1 h
  have hfault : t.fault = s.fault := ht.trans live.symm
  have hcrc : s.SameCrcUnit t := by
    rw [exec_readsOnly_frame hi h]
    exact ⟨rfl, rfl⟩
  cases hunit : opUnit i with
  | crcUnit => exact exec_of_sameCrcUnit hunit hcrc hfault h
  | frameDecoder => exact exec_of_sameFrameDecoder hunit (exec_sameFrameDecoder_of_readsOnly hi h) hfault h
  | whole =>
    cases i with
    | nop =>
      obtain ⟨-, h⟩ := exec_next.1 h
      obtain rfl := reply_next.1 h
      exact exec_next.2 ⟨ht, rfl⟩
    | rst => cases hi
    | _ => cases hunit

/-! ## The statements -/

/-- Settles O30: either side says that both cells lie within the capacity and have values, of which `v` is the field. -/
theorem fieldIsItsTwoBytes : Obligations.FieldIsItsTwoBytes := by
  intro o s v live ho
  have hnext : (o + 1#8).toNat = o.toNat + 1 := toNat_add_one (y := 255#8) ho
  refine (exec_fdRd16_answer live o v).trans ⟨?_, ?_⟩
  · rintro ⟨hcap, hi, hhi, lo, hlo, hv⟩
    refine ⟨hi, lo, ?_, ?_, eq_fieldRes_iff.1 hv⟩
    · exact (exec_fdRdb_answer live o (byteRes hi)).2 ⟨Nat.lt_of_succ_lt hcap, hi, hhi, rfl⟩
    · exact (exec_fdRdb_answer live (o + 1#8) (byteRes lo)).2 (hnext ▸ ⟨hcap, lo, hlo, rfl⟩)
  · rintro ⟨hi, lo, hexec, hexec', hv⟩
    obtain ⟨-, b, hb, e⟩ := (exec_fdRdb_answer live o (byteRes hi)).1 hexec
    obtain ⟨hcap, b', hb', e'⟩ := (exec_fdRdb_answer live (o + 1#8) (byteRes lo)).1 hexec'
    obtain rfl := byteRes_inj e
    obtain rfl := byteRes_inj e'
    rw [hnext] at hcap hb'
    exact ⟨hcap, hi, hb, lo, hb', eq_fieldRes_iff.2 hv⟩

/-- Settles O33: a read writes its result or the fault record alone; the next one reads no result, and a fault stops it. -/
theorem readsChangeNothingAndRepeat : Obligations.ReadsChangeNothingAndRepeat :=
  fun i _ _ hi h => ⟨exec_readsOnly_frame hi h, exec_again_of_readsOnly hi h, fun _ hr => exec_stopped hr i⟩

end Sys2Proof.Proofs
end

section
/-!
PROOFS. The statements about the operation word (30_encoding.md R75 to R86): a word is an operation's encoding or it is
reserved, and the counts, the opcode table and the port follow from that.
-/

namespace Sys2Proof.Proofs

open Sys2Proof.Machine Sys2Proof.Laws

/-! ## Which words are reserved (R79, R80) -/

/-- A legal word, by its two fields. -/
theorem wellFormed_eq (w : OpWord) :
    OpWord.wellFormed w =
      (!(0xA ≤ (opField w).toNat && (opField w).toNat ≤ 0xE) &&
        (!([0x0, 0x4, 0x5, 0x9, 0xF].contains (opField w).toNat) || dataField w == 0x00#8)) := rfl

/-- A word is illegal for one of the two reasons: its opcode is reserved, or its data must be zero and is not. -/
theorem not_wellFormed_iff (w : OpWord) :
    OpWord.wellFormed w = false ↔
      (0xA#4 ≤ opField w ∧ opField w ≤ 0xE#4) ∨
        ((opField w = 0x0#4 ∨ opField w = 0x4#4 ∨ opField w = 0x5#4 ∨ opField w = 0x9#4 ∨ opField w = 0xF#4) ∧
          dataField w ≠ 0x00#8) := by
  simp only [wellFormed_eq, Bool.and_eq_false_iff, Bool.or_eq_false_iff, Bool.not_eq_false']
  simp [BitVec.le_def, ← BitVec.toNat_inj (n := 4)]

/-- Every opcode takes an operand, requires zero data, or is reserved. -/
theorem opcode_cases : ∀ op : BitVec 4,
    (op = 0x1#4 ∨ op = 0x2#4 ∨ op = 0x3#4 ∨ op = 0x6#4 ∨ op = 0x7#4 ∨ op = 0x8#4) ∨
      (op = 0x0#4 ∨ op = 0x4#4 ∨ op = 0x5#4 ∨ op = 0x9#4 ∨ op = 0xF#4) ∨ (0xA#4 ≤ op ∧ op ≤ 0xE#4) := by
  decide

/-- The reserved opcodes, one by one (R79). -/
theorem reserved_opcode_iff : ∀ op : BitVec 4,
    (0xA#4 ≤ op ∧ op ≤ 0xE#4) ↔ (op = 0xA#4 ∨ op = 0xB#4 ∨ op = 0xC#4 ∨ op = 0xD#4 ∨ op = 0xE#4) := by
  decide

/-- Under an opcode that takes an operand, every word is an operation's (R77). -/
theorem exists_encode_of_operand_opcode {op : BitVec 4}
    (h : op = 0x1#4 ∨ op = 0x2#4 ∨ op = 0x3#4 ∨ op = 0x6#4 ∨ op = 0x7#4 ∨ op = 0x8#4) (d : Byte) :
    ∃ i, encode i = opWord op d := by
  obtain rfl | rfl | rfl | rfl | rfl | rfl := h
  · exact ⟨.crcSeed d, rfl⟩
  · exact ⟨.crcUpd d, rfl⟩
  · exact ⟨.crcChk d, rfl⟩
  · exact ⟨.fdPush d, rfl⟩
  · exact ⟨.fdRdb d, rfl⟩
  · exact ⟨.fdRd16 d, rfl⟩

/-- Under an opcode whose data must be zero, the word with zero data is an operation's (R80). -/
theorem exists_encode_of_mustBeZero_opcode {op : BitVec 4}
    (h : op = 0x0#4 ∨ op = 0x4#4 ∨ op = 0x5#4 ∨ op = 0x9#4 ∨ op = 0xF#4) : ∃ i, encode i = opWord op 0x00#8 := by
  obtain rfl | rfl | rfl | rfl | rfl := h
  · exact ⟨.nop, rfl⟩
  · exact ⟨.crcRd, rfl⟩
  · exact ⟨.crcRdm, rfl⟩
  · exact ⟨.fdStat, rfl⟩
  · exact ⟨.rst, rfl⟩

/-- Every legal word is the word of an operation (R82). -/
theorem exists_encode_of_wellFormed {w : OpWord} (h : OpWord.wellFormed w = true) : ∃ i, encode i = w := by
  rw [← Bool.not_eq_false, not_wellFormed_iff, not_or] at h
  obtain ⟨hop, hdata⟩ := h
  rw [← opWord_fields w]
  obtain operand | mustBeZero | reserved := opcode_cases (opField w)
  · exact exists_encode_of_operand_opcode operand _
  · have hzero : dataField w = 0x00#8 := by_contra fun hne => hdata ⟨mustBeZero, hne⟩
    rw [hzero]
    exact exists_encode_of_mustBeZero_opcode mustBeZero
  · exact absurd reserved hop

theorem decodeMustBeZero_of_ne {i : Instr} {op : BitVec 4} {d : Byte} (h : d ≠ 0x00#8) :
    decodeMustBeZero i op d = .reserved (.dataNotZero op d) := if_neg h

/-- An illegal word decodes as reserved, for the reason it is illegal (R79, R80). -/
theorem decode_of_not_wellFormed {w : OpWord} (h : OpWord.wellFormed w = false) :
    ∃ why, decode w = .reserved why := by
  rw [not_wellFormed_iff] at h
  obtain reserved | ⟨mustBeZero, hdata⟩ := h
  · refine ⟨.opcode (opField w), ?_⟩
    obtain hop | hop | hop | hop | hop := (reserved_opcode_iff _).1 reserved <;>
    · rw [decode, hop]
      rfl
  · refine ⟨.dataNotZero (opField w) (dataField w), ?_⟩
    obtain hop | hop | hop | hop | hop := mustBeZero <;>
    · rw [decode, hop]
      exact decodeMustBeZero_of_ne hdata

theorem decode_reserved_iff (w : OpWord) : (∃ why, decode w = .reserved why) ↔ OpWord.wellFormed w = false := by
  refine ⟨fun ⟨why, hdec⟩ => ?_, decode_of_not_wellFormed⟩
  by_contra hlegal
  obtain ⟨i, rfl⟩ := exists_encode_of_wellFormed (Bool.not_eq_false _ ▸ hlegal)
  rw [decode_encode] at hdec
  cases hdec

/-! ## How many words are operations (R82) -/

/-- `DATA` field `d` is legal under opcode `k`: no data under a reserved opcode, zero data where it must be zero, all data
elsewhere. -/
def legalFields (k d : Nat) : Bool :=
  if 0xA ≤ k ∧ k ≤ 0xE then false else if k ∈ [0x0, 0x4, 0x5, 0x9, 0xF] then d == 0 else true

theorem wellFormed_eq_legalFields (w : OpWord) :
    OpWord.wellFormed w = legalFields (w.toNat / 256) (w.toNat % 256) := by
  have hdata : (dataField w == 0x00#8) = ((dataField w).toNat == 0) := by
    rw [Bool.eq_iff_iff, beq_iff_eq, beq_iff_eq, ← BitVec.toNat_inj]
    rfl
  rw [wellFormed_eq, hdata, toNat_opField, toNat_dataField, ← Bool.decide_and, List.contains_eq_mem, legalFields]
  split_ifs <;> simp [*]

/-- A 12-bit table word is an operation exactly when it is legal. -/
theorem isSome_decodeTableWord {n : Nat} (h : n < 4096) :
    (decodeTableWord 12 n).isSome = legalFields (n / 256) (n % 256) := by
  have hmod : n % 2 ^ 12 = n := Nat.mod_eq_of_lt h
  have hw : (BitVec.ofNat 12 n).toNat = n := (BitVec.toNat_ofNat ..).trans hmod
  have hfields := wellFormed_eq_legalFields (BitVec.ofNat 12 n)
  rw [hw] at hfields
  simp only [decodeTableWord, hmod, if_pos h, ← hfields]
  cases hlegal : OpWord.wellFormed (BitVec.ofNat 12 n) with
  | true =>
    obtain ⟨i, hi⟩ := exists_encode_of_wellFormed hlegal
    rw [← hi, decode_encode]
    rfl
  | false =>
    obtain ⟨why, hres⟩ := decode_of_not_wellFormed hlegal
    rw [hres]
    rfl

/-- Counting through `m` rows of `n` numbers each. -/
theorem countP_range_mul (p : Nat → Bool) (n m : Nat) :
    (List.range (n * m)).countP p = ((List.range m).map fun k => (List.range n).countP fun j => p (n * k + j)).sum := by
  induction m with
  | zero => rfl
  | succ m ih =>
    rw [Nat.mul_succ, List.range_add, List.countP_append, List.countP_map, ih, List.range_succ, List.map_append,
      List.sum_append]
    simp only [List.map_cons, List.map_nil, List.sum_singleton, Function.comp_def]

/-- How many `DATA` fields are legal under opcode `k`. -/
theorem countP_legalFields (k : Nat) :
    (List.range 256).countP (legalFields k) =
      if 0xA ≤ k ∧ k ≤ 0xE then 0 else if k ∈ [0x0, 0x4, 0x5, 0x9, 0xF] then 1 else 256 := by
  unfold legalFields
  split_ifs
  · exact congrFun List.countP_false _
  · exact List.count_eq_one_of_mem List.nodup_range (List.mem_range.2 (by decide))
  · rw [List.countP_true, List.length_range]

theorem countP_operations : (List.range 4096).countP (fun n => (decodeTableWord 12 n).isSome) = 1536 + 5 := by
  calc (List.range 4096).countP (fun n => (decodeTableWord 12 n).isSome)
      _ = (List.range (256 * 16)).countP fun n => legalFields (n / 256) (n % 256) :=
        List.countP_congr fun n hn => by rw [isSome_decodeTableWord (List.mem_range.1 hn)]
      _ = ((List.range 16).map fun k => (List.range 256).countP (legalFields k)).sum := by
        rw [countP_range_mul]
        refine congrArg List.sum (List.map_congr_left fun k _ => List.countP_congr fun j hj => ?_)
        have := List.mem_range.1 hj
        rw [show (256 * k + j) / 256 = k by omega, show (256 * k + j) % 256 = j by omega]
      _ = 1536 + 5 := by
        simp only [countP_legalFields]
        decide

/-! ## The opcode table (R86) -/

/-- The row of an opcode that takes an operand: its mask leaves the opcode. -/
def operandRow (mnemonic : String) (op : BitVec 4) : OpcodeRow :=
  { mnemonic := mnemonic, pattern := opWord op 0x00#8, mask := opWord 0xF#4 0x00#8 }

/-- The row of an opcode whose data must be zero: its mask leaves the whole word. -/
def mustBeZeroRow (mnemonic : String) (op : BitVec 4) : OpcodeRow :=
  { mnemonic := mnemonic, pattern := opWord op 0x00#8, mask := opWord 0xF#4 0xFF#8 }

@[simp] theorem operandRow_mnemonic (m : String) (k : BitVec 4) : (operandRow m k).mnemonic = m := rfl
@[simp] theorem mustBeZeroRow_mnemonic (m : String) (k : BitVec 4) : (mustBeZeroRow m k).mnemonic = m := rfl

theorem opcodeTable_eq : opcodeTable =
    [mustBeZeroRow "NOP" 0x0#4, operandRow "CRC.SEED" 0x1#4, operandRow "CRC.UPD" 0x2#4, operandRow "CRC.CHK" 0x3#4,
      mustBeZeroRow "CRC.RD" 0x4#4, mustBeZeroRow "CRC.RDM" 0x5#4, operandRow "FD.PUSH" 0x6#4,
      operandRow "FD.RDB" 0x7#4, operandRow "FD.RD16" 0x8#4, mustBeZeroRow "FD.STAT" 0x9#4,
      mustBeZeroRow "RST" 0xF#4] := rfl

theorem opWord_inj {op op' : BitVec 4} {d d' : Byte} : opWord op d = opWord op' d' ↔ op = op' ∧ d = d' := by
  refine ⟨fun h => ⟨?_, ?_⟩, fun ⟨hop, hd⟩ => by rw [hop, hd]⟩
  · rw [← opField_opWord op d, h, opField_opWord]
  · rw [← dataField_opWord op d, h, dataField_opWord]

theorem opWord_and (op op' : BitVec 4) (d d' : Byte) :
    opWord op d &&& opWord op' d' = opWord (op &&& op') (d &&& d') := BitVec.and_append

@[simp] theorem operandRow_selects (m : String) (k op : BitVec 4) (d : Byte) :
    (operandRow m k).selects (opWord op d) = (op == k) := by
  have hop : op &&& 0xF#4 = op := BitVec.and_allOnes
  rw [OpcodeRow.selects, operandRow, opWord_and, hop, BitVec.and_zero, Bool.eq_iff_iff, beq_iff_eq, beq_iff_eq,
    opWord_inj, and_iff_left rfl]

@[simp] theorem mustBeZeroRow_selects (m : String) (k op : BitVec 4) (d : Byte) :
    (mustBeZeroRow m k).selects (opWord op d) = (op == k && d == 0x00#8) := by
  have hop : op &&& 0xF#4 = op := BitVec.and_allOnes
  have hd : d &&& 0xFF#8 = d := BitVec.and_allOnes
  rw [OpcodeRow.selects, mustBeZeroRow, opWord_and, hop, hd, Bool.eq_iff_iff, Bool.and_eq_true, beq_iff_eq, beq_iff_eq,
    beq_iff_eq, opWord_inj]

/-- The word of an operation selects the operation's row alone. -/
theorem mnemonics_of_encode (i : Instr) :
    (opcodeTable.filter fun r => r.selects (encode i)).map OpcodeRow.mnemonic = [i.mnemonic] := by
  rw [opcodeTable_eq]
  cases i <;> simp [encode, Instr.mnemonic]

/-- A word that selects a row is legal. -/
theorem wellFormed_of_selects {r : OpcodeRow} {w : OpWord} (hr : r ∈ opcodeTable) (hw : r.selects w = true) :
    OpWord.wellFormed w = true := by
  rw [← opWord_fields w] at hw
  rw [opcodeTable_eq] at hr
  simp only [List.mem_cons, List.not_mem_nil, or_false] at hr
  rw [wellFormed_eq]
  obtain rfl | rfl | rfl | rfl | rfl | rfl | rfl | rfl | rfl | rfl | rfl := hr <;>
  · simp only [operandRow_selects, mustBeZeroRow_selects, Bool.and_eq_true, beq_iff_eq] at hw
    simp [hw]

/-! ## The statements -/

/-- Settles O37: a word that decodes to an operation is legal, so it is some operation's word, and `decode_encode` says
whose. -/
theorem decodeAndEncodeAgree : Obligations.DecodeAndEncodeAgree := by
  intro w i
  constructor
  · intro hdec
    cases hw : OpWord.wellFormed w with
    | true =>
      obtain ⟨j, rfl⟩ := exists_encode_of_wellFormed hw
      rw [decode_encode] at hdec
      cases hdec
      rfl
    | false =>
      obtain ⟨why, hres⟩ := decode_of_not_wellFormed hw
      cases hdec.symm.trans hres
  · rintro rfl
    exact decode_encode i

/-- Settles O38: the reserved words are the illegal ones, and the legal ones are counted opcode by opcode. -/
theorem reservedWordsAreExactlyThose : Obligations.ReservedWordsAreExactlyThose := by
  refine ⟨fun w => ?_, ?_, ?_⟩
  · rw [decode_reserved_iff, not_wellFormed_iff]
    simp only [BitVec.le_def, ← BitVec.toNat_inj, toNat_opField, toNat_dataField, ne_eq, List.mem_cons, List.not_mem_nil,
      or_false]
    rfl
  · rw [← List.countP_eq_length_filter]
    exact countP_operations
  · have hlen := List.length_eq_length_filter_add (l := List.range 4096) fun n => (decodeTableWord 12 n).isSome
    rw [List.length_range, ← List.countP_eq_length_filter, countP_operations] at hlen
    exact Nat.add_left_cancel hlen.symm

/-- Settles O4: such a word decodes as reserved, and the port raises the fault on it. -/
theorem reservedWordRaisesReservedEncoding : Obligations.ReservedWordRaisesReservedEncoding := by
  intro s w rest live hport hres
  obtain ⟨why, hdec⟩ := decode_of_not_wellFormed ((not_wellFormed_iff w).2 hres)
  rw [step_of_reserved hport hdec]
  exact accept_live (s := { s with port := rest }) live _

/-- Settles O39: an operation's word selects its own row, and a word that selects a row is legal. -/
theorem eachWordSelectsItsTableRow : Obligations.EachWordSelectsItsTableRow := by
  intro w
  cases hw : OpWord.wellFormed w with
  | true =>
    obtain ⟨i, rfl⟩ := exists_encode_of_wellFormed hw
    rw [mnemonics_of_encode, decode_encode]
  | false =>
    obtain ⟨why, hres⟩ := decode_of_not_wellFormed hw
    have hnone : (opcodeTable.filter fun r => r.selects w) = [] :=
      List.filter_eq_nil_iff.2 fun r hr hsel => by
        rw [wellFormed_of_selects hr hsel] at hw
        cases hw
    rw [hnone, hres]
    rfl

/-- Settles O40: by O37 it is enough to encode the eleven operations. -/
theorem opcodeMapWordsDecode : Obligations.OpcodeMapWordsDecode := by
  simp only [Obligations.OpcodeMapWordsDecode, decodeAndEncodeAgree _ _]
  decide

end Sys2Proof.Proofs
end

section
/-!
PROOFS. The statements about the frame wire format (30_encoding.md R66 to R71): the checksum byte, a frame that is too long,
and a frame within the capacity followed byte by byte through the decoder and the stream reader.
-/

namespace Sys2Proof.Proofs

open Sys2Proof.Machine Sys2Proof.Laws

/-! ## One byte of the stream (R107) -/

/-- The block after `FD.PUSH b`: the selected arm's state, with its signals as the result. -/
def pushed (b : Byte) (s : State) : State := (pushArm b s).1.answer (pushRes (pushArm b s).2)

@[simp] theorem pushed_config (b : Byte) (s : State) : (pushed b s).config = s.config := pushArm_config b s
@[simp] theorem pushed_fault (b : Byte) (s : State) : (pushed b s).fault = s.fault := pushArm_fault b s

theorem exec_fdPush_live {s : State} (live : s.fault = none) (b : Byte) : exec (.fdPush b) s = .next (pushed b s) :=
  execFdPush_live live b

theorem pushAll_cons_live {s : State} (live : s.fault = none) (b : Byte) (bs : List Byte) :
    pushAll (b :: bs) s = (pushRes (pushArm b s).2 :: (pushAll bs (pushed b s)).1, (pushAll bs (pushed b s)).2) :=
  pushAll_cons_next (exec_fdPush_live live b) bs

theorem pushArm_header {s : State} (h : s.st = .awaitHeader) (b : Byte) : pushArm b s = pushHeader b s := by
  rw [pushArm, h]

theorem pushArm_length {s : State} (h : s.st = .awaitLength) (b : Byte) : pushArm b s = pushLength b s := by
  rw [pushArm, h]

theorem pushArm_payload {s : State} (h : s.st = .accumulatePayload) (b : Byte) : pushArm b s = pushPayload b s := by
  rw [pushArm, h]

theorem pushArm_checksum {s : State} (h : s.st = .awaitChecksum) (b : Byte) : pushArm b s = pushChecksum b s := by
  rw [pushArm, h]

@[simp] theorem pushRes_overflow : pushRes { Signals.quiet with ovf := true } = 4#32 := by decide

/-! ## A frame within the capacity, byte by byte (R66, R116) -/

/-- The buffer holds the payload `p` of a frame within the capacity, on a block that accepts operations. -/
structure HoldsPayload (p : List Byte) (s : State) : Prop where
  live : s.fault = none
  cap : p.length ≤ s.config.cap
  cells : Memory.take s.buf p.length = some p

/-- The decoder is inside a frame of length `n` whose payload so far is `p`: the payload's cells, and the registers of R29 to
R31. -/
structure InFrame (n : Byte) (p : List Byte) (s : State) : Prop where
  held : HoldsPayload p s
  fits : n.toNat ≤ s.config.cap
  len : s.len = n
  idx : s.idx.toNat = p.length
  ck : s.ck = headerMarker + n + sumByte p
  st : s.st = if p.length = n.toNat then .awaitChecksum else .accumulatePayload

/-- Header and length begin a frame, quietly. -/
theorem inFrame_begin {s : State} {n : Byte} (live : s.fault = none) (hst : s.st = .awaitHeader)
    (hn : n.toNat ≤ s.config.cap) :
    (pushArm headerMarker s).2 = .quiet ∧ (pushArm n (pushed headerMarker s)).2 = .quiet ∧
      InFrame n [] (pushed n (pushed headerMarker s)) := by
  have hheader : pushArm headerMarker s = ({ s with ck := headerMarker, st := .awaitLength }, .quiet) :=
    pushArm_header hst _
  have hlength := pushArm_length (s := pushed headerMarker s) (by rw [pushed, hheader]; rfl) n
  rw [pushLength, if_pos (by rwa [pushed_config])] at hlength
  have hzero : n = 0x00#8 ↔ 0 = n.toNat := by rw [← BitVec.toNat_inj, eq_comm]; rfl
  refine ⟨by rw [hheader], by rw [hlength], ?_⟩
  rw [pushed, hlength, pushed, hheader]
  refine ⟨⟨live, Nat.zero_le _, rfl⟩, hn, rfl, rfl, (BitVec.add_zero _).symm, ?_⟩
  simp only [answer_st, hzero, List.length_nil]

/-- A payload byte extends the frame, quietly. -/
theorem inFrame_push {s : State} {n : Byte} {p : List Byte} (h : InFrame n p s) (hp : p.length < n.toNat) (b : Byte) :
    (pushArm b s).2 = .quiet ∧ InFrame n (p ++ [b]) (pushed b s) := by
  obtain ⟨⟨live, -, hcells⟩, hfits, hlen, hidx, hck, hst⟩ := h
  have harm := pushArm_payload (hst.trans (if_neg (Nat.ne_of_lt hp))) b
  have hnext : (s.idx + 1#8).toNat = (p ++ [b]).length := by
    rw [toNat_add_one (hidx ▸ hp), hidx, List.length_append, List.length_singleton]
  refine ⟨by rw [harm]; rfl, ?_⟩
  rw [pushed, harm]
  refine ⟨⟨live, ?_, ?_⟩, hfits, hlen, hnext, ?_, ?_⟩
  · rw [List.length_append]
    exact Nat.le_trans hp hfits
  · rw [List.length_append]
    simp only [pushPayload, answer_buf, hidx]
    exact take_write_next (Nat.lt_of_lt_of_le hp hfits) hcells
  · simp [pushPayload, hck, sumByte_append, sumByte, BitVec.add_assoc]
  · simp only [pushPayload, answer_st, hlen, ← hnext, BitVec.toNat_inj]

/-- The checksum byte completes the frame, `OK` exactly when the sum is zero, and the payload stays in the buffer. -/
theorem inFrame_checksum {s : State} {n : Byte} {p : List Byte} (h : InFrame n p s) (hp : p.length = n.toNat) (c : Byte) :
    (pushArm c s).2 = { done := true, ok := headerMarker + n + sumByte p + c == 0x00#8, ovf := false } ∧
      HoldsPayload p (pushed c s) := by
  obtain ⟨⟨live, hcap, hcells⟩, -, -, -, hck, hst⟩ := h
  have harm := pushArm_checksum (hst.trans (if_pos hp)) c
  refine ⟨by rw [harm, pushChecksum, hck]; rfl, ?_⟩
  rw [pushed, harm]
  exact ⟨live, hcap, hcells⟩

/-- A frame is valid exactly when the decoder's sum of its bytes is zero (R67). -/
theorem valid_iff_sumByte (f : Frame) :
    f.valid = true ↔ headerMarker + f.lengthByte + sumByte f.payload + f.checksum = 0x00#8 := by
  rw [Frame.valid, beq_iff_eq, ← BitVec.toNat_inj]
  simp only [BitVec.toNat_add, Frame.lengthByte, BitVec.toNat_ofNat, toNat_sumByte]
  omega

/-! ## The stream reader (R125 to R130) -/

/-- A byte that completes no frame only moves the reader's block. -/
theorem feed_quiet {r : Reader} {b : Byte} (live : r.block.fault = none) (h : (pushArm b r.block).2 = .quiet) :
    r.feed b = { r with block := pushed b r.block } := by
  rw [Reader.feed, issue_cons_next (exec_fdPush_live live b), pushed, h]
  rfl

/-- A byte that completes a valid frame publishes what extraction reads. -/
theorem feed_valid {r : Reader} {b : Byte} {d : DustReading} (live : r.block.fault = none)
    (h : (pushArm b r.block).2 = { done := true, ok := true, ovf := false })
    (hextract : (extract (pushed b r.block)).1 = some d) : (r.feed b).published = some d := by
  have hdone : resDone (pushRes (pushArm b r.block).2) = true := by rw [h]; decide
  have hok : resOk (pushRes (pushArm b r.block).2) = true := by rw [h]; decide
  have hissue : issue [.fdPush b] r.block = ([pushRes (pushArm b r.block).2], pushed b r.block) :=
    issue_cons_next (exec_fdPush_live live b) []
  rw [Reader.feed, hissue]
  simp only [hdone, hok]
  rw [← Prod.eta (extract _), hextract]
  rfl

/-- The bytes of a payload only move the reader's block on inside the frame. -/
theorem feedAll_payload {n : Byte} {p q : List Byte} {r : Reader} (h : InFrame n p r.block)
    (hlen : p.length + q.length ≤ n.toNat) :
    ∃ s, InFrame n (p ++ q) s ∧ r.feedAll q = { r with block := s } := by
  induction q generalizing p r with
  | nil => exact ⟨r.block, by rwa [List.append_nil], rfl⟩
  | cons b q ih =>
    rw [List.length_cons] at hlen
    obtain ⟨hquiet, hnext⟩ := inFrame_push h (by omega) b
    have hfeed := feed_quiet h.held.live hquiet
    obtain ⟨s, hs, hall⟩ := ih (r := { r with block := pushed b r.block }) hnext
      (by rw [List.length_append, List.length_singleton]; omega)
    refine ⟨s, by rwa [List.append_assoc] at hs, ?_⟩
    rw [← hall, ← hfeed]
    rfl

/-! ## Extraction (R128) -/

/-- The first `n + 1` cells are the first `n` and cell `n`. -/
theorem take_succ_eq_some {m : Memory} {n : Nat} {bs : List Byte} (h : Memory.take m (n + 1) = some bs) :
    ∃ cs b, Memory.take m n = some cs ∧ Memory.read m n = some b ∧ bs = cs ++ [b] := by
  rw [Memory.take] at h
  split at h
  · exact ⟨_, _, ‹_›, ‹_›, (Option.some.inj h).symm⟩
  · cases h

theorem length_of_take {m : Memory} {n : Nat} {bs : List Byte} (h : Memory.take m n = some bs) : bs.length = n := by
  induction n generalizing bs with
  | zero =>
    cases h
    rfl
  | succ n ih =>
    obtain ⟨cs, b, hcs, -, rfl⟩ := take_succ_eq_some h
    rw [List.length_append, ih hcs, List.length_singleton]

/-- The first `n` cells hold what is taken of them. -/
theorem read_of_take {m : Memory} {n k : Nat} {bs : List Byte} (h : Memory.take m n = some bs) (hk : k < n) :
    Memory.read m k = bs[k]? := by
  induction n generalizing bs with
  | zero => cases hk
  | succ n ih =>
    obtain ⟨cs, b, hcs, hb, rfl⟩ := take_succ_eq_some h
    have hlen := length_of_take hcs
    obtain hlt | rfl := Nat.lt_succ_iff_lt_or_eq.1 hk
    · rw [ih hcs hlt, List.getElem?_append_left (hlen ▸ hlt)]
    · rw [hb, ← hlen, List.getElem?_concat_length]

/-- Every two adjacent bytes of a held payload can be read as a field (R114). -/
theorem exec_fdRd16_of_holdsPayload {p : List Byte} {s : State} {o : Byte} {k : Nat} (h : HoldsPayload p s)
    (hk : o.toNat = k) (hlong : k + 1 < p.length) :
    exec (.fdRd16 o) s = .next (s.answer (fieldRes p[k] p[k + 1])) := by
  refine (exec_fdRd16_answer h.live o _).2 ⟨hk ▸ Nat.lt_of_lt_of_le hlong h.cap, p[k], ?_, p[k + 1], ?_, rfl⟩
  · rw [hk, read_of_take h.cells (by omega), List.getElem?_eq_getElem]
  · rw [hk, read_of_take h.cells hlong, List.getElem?_eq_getElem]

/-- A field read first leaves the payload held for the reads after it. -/
theorem issue_fdRd16_of_holdsPayload {p : List Byte} {s : State} {o : Byte} {k : Nat} (h : HoldsPayload p s)
    (hk : o.toNat = k) (hlong : k + 1 < p.length) (is : List Instr) :
    ∃ t, HoldsPayload p t ∧ (issue (.fdRd16 o :: is) s).1 = fieldRes p[k] p[k + 1] :: (issue is t).1 := by
  refine ⟨s.answer (fieldRes p[k] p[k + 1]), ⟨h.live, h.cap, h.cells⟩, ?_⟩
  rw [issue_cons_next (exec_fdRd16_of_holdsPayload h hk hlong)]
  rfl

@[simp] theorem setWidth_fieldRes (hi lo : Byte) : (fieldRes hi lo).setWidth 16 = hi ++ lo := by
  simp [fieldRes]

/-- Extraction reads the three fields of a held payload that is long enough for them. -/
theorem extract_of_holdsPayload {p : List Byte} {s : State} (h : HoldsPayload p s) (hp : 12 < p.length) :
    (extract s).1 = some { pm25 := p[3] ++ p[4], pm1 := p[7] ++ p[8], pm10 := p[11] ++ p[12] } := by
  obtain ⟨t, ht, hread3⟩ := issue_fdRd16_of_holdsPayload (o := 3#8) (k := 3) h rfl (by omega)
    [.fdRd16 7#8, .fdRd16 11#8]
  obtain ⟨u, hu, hread7⟩ := issue_fdRd16_of_holdsPayload (o := 7#8) (k := 7) ht rfl (by omega) [.fdRd16 11#8]
  obtain ⟨v, -, hread11⟩ := issue_fdRd16_of_holdsPayload (o := 11#8) (k := 11) hu rfl (by omega) []
  rw [hread11, issue_nil] at hread7
  rw [hread7] at hread3
  simp only [extract, Pseudo.expand, hread3, setWidth_fieldRes]

/-- A valid frame within the capacity, fed to a reader that seeks a header, publishes its three fields (R125, R128). -/
theorem feedAll_valid_frame_published {f : Frame} {r : Reader} (live : r.block.fault = none)
    (hst : r.block.st = .awaitHeader) (hfits : f.fits r.block.config.cap = true) (hvalid : f.valid = true)
    (hlong : 12 < f.payload.length) :
    (r.feedAll f.bytes).published =
      some { pm25 := f.payload[3] ++ f.payload[4], pm1 := f.payload[7] ++ f.payload[8],
             pm10 := f.payload[11] ++ f.payload[12] } := by
  obtain ⟨hbyte, hcap⟩ : f.payload.length ≤ 255 ∧ f.payload.length ≤ r.block.config.cap := by
    simpa [Frame.fits, Frame.wellFormed] using hfits
  have hlen : f.lengthByte.toNat = f.payload.length := Nat.mod_eq_of_lt (by omega)
  obtain ⟨hheader, hlength, hbegin⟩ := inFrame_begin live hst (hlen.symm ▸ hcap)
  obtain ⟨s, hs, hpayload⟩ := feedAll_payload (q := f.payload)
    (r := { r with block := pushed f.lengthByte (pushed headerMarker r.block) }) hbegin
    (by rw [hlen, List.length_nil, Nat.zero_add])
  obtain ⟨hsignals, hheld⟩ := inFrame_checksum hs hlen.symm f.checksum
  rw [List.nil_append, (valid_iff_sumByte f).1 hvalid] at hsignals
  have hfeedAll : r.feedAll f.bytes = Reader.feed { r with block := s } f.checksum := by
    have hlive : (pushed headerMarker r.block).fault = none := (pushed_fault _ _).trans live
    rw [← hpayload, ← feed_quiet (r := { r with block := pushed headerMarker r.block }) hlive hlength,
      ← feed_quiet live hheader]
    simp only [Reader.feedAll, Frame.bytes, List.foldl_cons, List.foldl_append, List.foldl_nil]
  rw [hfeedAll]
  exact feed_valid (r := { r with block := s }) hs.held.live hsignals (extract_of_holdsPayload hheld hlong)

/-! ## The statements -/

/-- Settles O46: the header arm, then the overflow branch of the length arm, on which the buffer, `LEN` and `IDX` stay. -/
theorem oversizedFrameIsDiscardedAtItsLength : Obligations.OversizedFrameIsDiscardedAtItsLength := by
  intro n s live hst hn
  have hheader : pushArm 0x16#8 s = ({ s with ck := 0x16#8, st := .awaitLength }, .quiet) := pushArm_header hst _
  have hlength := pushArm_length (s := pushed 0x16#8 s) (by rw [pushed, hheader]; rfl) n
  rw [pushLength, if_neg (by rw [pushed_config]; omega)] at hlength
  rw [pushAll_cons_live live, pushAll_cons_live ((pushed_fault _ s).trans live), pushAll_nil, hheader, hlength,
    pushRes_quiet, pushRes_overflow]
  refine ⟨_, rfl, ?_⟩
  rw [pushed, hlength, pushed, hheader]
  exact ⟨live, rfl, rfl, rfl, rfl⟩

/-- Settles O54: the reference datagram is a valid frame of 17 payload bytes, which every legal capacity holds. -/
theorem referenceDatagramPublishesItsFields : Obligations.ReferenceDatagramPublishesItsFields := by
  intro c hc
  have hcap : 17 ≤ c.cap := by
    rw [Config.wellFormed, Bool.and_eq_true] at hc
    obtain ⟨hlow, -⟩ := hc
    exact of_decide_eq_true hlow
  have hfits : referenceFrame.fits c.cap = true := by
    rw [Frame.fits, Bool.and_eq_true]
    exact ⟨rfl, decide_eq_true hcap⟩
  exact feedAll_valid_frame_published (r := { block := State.powerOn c, published := none }) rfl rfl hfits rfl
    (by decide)

/-- Settles O44: of the bytes, exactly one completes the sum to a multiple of 256. -/
theorem exactlyOneChecksumByteIsValid : Obligations.ExactlyOneChecksumByteIsValid := by
  intro p c
  have hc := c.isLt
  rw [Frame.valid, checksumFor, ← BitVec.toNat_inj, BitVec.toNat_ofNat, beq_iff_eq]
  dsimp only
  omega

end Sys2Proof.Proofs
end

section
/-!
PROOFS. The statements about the CRC unit (40_crc.md): `crc_step` as a linear function with its table and its reflected form
(R92, R94 to R96), the unit's operations (R87 to R91, R98), bytes fed after a seed (R93), and the consumer's transactions,
measurement cycle and bus recovery (R99 to R104).
-/

namespace Sys2Proof.Proofs

open Sys2Proof.Machine Sys2Proof.Laws

/-! ## `crc_step` is linear and cancels its own register (R95, R96) -/

theorem crcRounds_xor (n : Nat) (c v c' v' : Byte) :
    crcRounds n (c ^^^ c') (v ^^^ v') = crcRounds n c v ^^^ crcRounds n c' v' := by
  induction n generalizing c v c' v' with
  | zero => rfl
  | succ n ih => simp only [crcRounds, crcRound_xor, BitVec.shiftLeft_xor_distrib, ih]

theorem crcStep_xor (c v c' v' : Byte) : crcStep (c ^^^ c') (v ^^^ v') = crcStep c v ^^^ crcStep c' v' :=
  crcRounds_xor 8 c v c' v'

/-- A register fed itself is only shifted out: no round feeds the polynomial back. -/
theorem crcRounds_self (n : Nat) (c : Byte) : crcRounds n c c = c <<< n := by
  induction n generalizing c with
  | zero => rw [crcRounds, BitVec.shiftLeft_zero]
  | succ n ih =>
    have hround : crcRound c c = c <<< 1 := by rw [crcRound, BitVec.xor_self]; rfl
    rw [crcRounds, hround, ih, ← BitVec.shiftLeft_add, Nat.add_comm]

theorem crcStep_self (c : Byte) : crcStep c c = 0x00#8 :=
  (crcRounds_self 8 c).trans (BitVec.shiftLeft_eq_zero (Nat.le_refl 8))

/-- Only the exclusive or of register and byte matters (R92). -/
theorem crcStep_eq_zero_register (c b : Byte) : crcStep c b = crcStep 0x00#8 (c ^^^ b) := by
  have h := crcStep_xor c c 0x00#8 (c ^^^ b)
  rwa [BitVec.xor_zero, ← BitVec.xor_assoc, BitVec.xor_self, BitVec.zero_xor, crcStep_self, BitVec.zero_xor] at h

/-- The byte can be added to the register before the rounds, which then shift in zeros. -/
theorem crcStep_eq_zero_byte (c b : Byte) : crcStep c b = crcStep (c ^^^ b) 0x00#8 := by
  rw [crcStep_eq_zero_register, crcStep_eq_zero_register (c ^^^ b), BitVec.xor_zero]

/-- `n + 1` rounds that shift in zeros. -/
theorem crcRounds_succ_zero (n : Nat) (c : Byte) :
    crcRounds (n + 1) c 0x00#8 = crcRounds n (crcRound c 0x00#8) 0x00#8 := by
  rw [crcRounds, BitVec.zero_shiftLeft]

/-- No round loses a bit: a bit shifted out is fed back into bit 0, where the polynomial is 1. -/
theorem eq_zero_of_crcRound {c : Byte} (h : crcRound c 0x00#8 = 0x00#8) : c = 0x00#8 := by
  rw [crcRound, BitVec.xor_zero] at h
  split at h
  · have hlow := congrArg (BitVec.getLsbD · 0) h
    simp [crcPoly] at hlow
  · next htop =>
    refine BitVec.eq_of_getLsbD_eq fun i hi => ?_
    rw [BitVec.getLsbD_zero]
    obtain rfl | hlt := Nat.eq_or_lt_of_le (Nat.le_of_lt_succ hi)
    · exact Bool.not_eq_true _ ▸ htop
    · have hbit := congrArg (BitVec.getLsbD · (i + 1)) h
      rw [BitVec.getLsbD_eq_getElem hi]
      simpa [Nat.succ_lt_succ hlt] using hbit

theorem eq_zero_of_crcRounds {n : Nat} {c : Byte} (h : crcRounds n c 0x00#8 = 0x00#8) : c = 0x00#8 := by
  induction n generalizing c with
  | zero => exact h
  | succ n ih =>
    rw [crcRounds_succ_zero] at h
    exact eq_zero_of_crcRound (ih h)

/-- A byte cancels the register exactly when it equals it (R95). -/
theorem crcStep_eq_zero_iff (c b : Byte) : crcStep c b = 0x00#8 ↔ b = c := by
  refine ⟨fun h => ?_, fun h => h ▸ crcStep_self b⟩
  rw [crcStep_eq_zero_byte] at h
  exact (BitVec.xor_eq_zero_iff.1 (eq_zero_of_crcRounds h)).symm

/-- Two steps agree exactly when register and byte differ in the same bits. -/
theorem crcStep_eq_iff {c b c' b' : Byte} : crcStep c b = crcStep c' b' ↔ b ^^^ b' = c ^^^ c' := by
  rw [← BitVec.xor_eq_zero_iff, ← crcStep_xor, crcStep_eq_zero_iff]

theorem crcStep_register_injective {c c' b : Byte} (h : crcStep c b = crcStep c' b) : c = c' := by
  rw [crcStep_eq_iff, BitVec.xor_self] at h
  exact BitVec.xor_eq_zero_iff.1 h.symm

theorem crcStep_byte_injective {c b b' : Byte} (h : crcStep c b = crcStep c b') : b = b' := by
  rw [crcStep_eq_iff, BitVec.xor_self] at h
  exact BitVec.xor_eq_zero_iff.1 h

/-! ## The register after several bytes (R96) -/

theorem crcOf_cons (c b : Byte) (bs : List Byte) : crcOf c (b :: bs) = crcOf (crcStep c b) bs := rfl

theorem crcOf_append (c : Byte) (bs bs' : List Byte) : crcOf c (bs ++ bs') = crcOf (crcOf c bs) bs' :=
  List.foldl_append

theorem crcOf_replicate_zero (n : Nat) : crcOf 0x00#8 (List.replicate n 0x00#8) = 0x00#8 := by
  induction n with
  | zero => rfl
  | succ n ih => rw [List.replicate_succ, crcOf_cons, crcStep_self, ih]

/-- Different registers stay different, whatever is fed to both. -/
theorem crcOf_injective {c c' : Byte} {bs : List Byte} (h : crcOf c bs = crcOf c' bs) : c = c' := by
  induction bs generalizing c c' with
  | nil => exact h
  | cons b bs ih => exact crcStep_register_injective (ih h)

/-! ## The table of V6 (R92) -/

/-- The 256 entries of the table are the steps from a zero register. -/
theorem crcTableStep_zero_register : ∀ x : Byte, crcTableStep 0x00#8 x = crcStep 0x00#8 x := by decide

theorem crcTableStep_eq (c b : Byte) : crcTableStep c b = crcStep c b := by
  have hentry := crcTableStep_zero_register (c ^^^ b)
  rwa [crcTableStep, BitVec.zero_xor, ← crcStep_eq_zero_register] at hentry

theorem crcByTable_eq_crcOf : crcByTable = crcOf := by
  have hstep : crcTableStep = crcStep := funext fun c => funext fun b => crcTableStep_eq c b
  funext init bs
  rw [crcByTable, crcOf, hstep]

/-! ## The reflected form (R94) -/

theorem mirror8_xor (a b : Byte) : mirror8 (a ^^^ b) = mirror8 a ^^^ mirror8 b := by
  refine BitVec.eq_of_getLsbD_eq fun i hi => ?_
  simp only [BitVec.getLsbD_xor, getLsbD_mirror8 _ hi]

/-- Mirrored, a shift to the left is a shift to the right. -/
theorem mirror8_shiftLeft_one (c : Byte) : mirror8 (c <<< 1) = mirror8 c >>> 1 := by
  refine BitVec.eq_of_getLsbD_eq fun i hi => ?_
  rw [getLsbD_mirror8 _ hi, BitVec.getLsbD_ushiftRight, BitVec.getLsbD_shiftLeft]
  obtain rfl | hlt := Nat.eq_or_lt_of_le (Nat.le_of_lt_succ hi)
  · simp
  · rw [getLsbD_mirror8 _ (by omega), show 7 - i - 1 = 7 - (1 + i) by omega]
    simp [show ¬ 7 - i < 1 by omega, show 7 - i < 8 by omega]

theorem mirror8_crcRound (c : Byte) : mirror8 (crcRound c 0x00#8) = reflectedRound (mirror8 c) := by
  have htop : (mirror8 c).getLsbD 0 = c.getLsbD 7 := getLsbD_mirror8 c (by omega)
  have hpoly : mirror8 crcPoly = 0x8C#8 := by decide
  rw [crcRound, reflectedRound, htop, BitVec.xor_zero]
  split
  · rw [mirror8_xor, mirror8_shiftLeft_one, hpoly]
  · exact mirror8_shiftLeft_one c

theorem mirror8_crcRounds (n : Nat) (c : Byte) : mirror8 (crcRounds n c 0x00#8) = reflectedRounds n (mirror8 c) := by
  induction n generalizing c with
  | zero => rfl
  | succ n ih => rw [crcRounds_succ_zero, ih, mirror8_crcRound, reflectedRounds]

theorem mirror8_crcStep (c b : Byte) : mirror8 (crcStep c b) = reflectedStep (mirror8 c) (mirror8 b) := by
  rw [crcStep_eq_zero_byte, crcStep, mirror8_crcRounds, mirror8_xor, reflectedStep]

theorem mirror8_crcOf (c : Byte) (bs : List Byte) :
    mirror8 (crcOf c bs) = crcReflected (mirror8 c) (bs.map mirror8) := by
  induction bs generalizing c with
  | nil => rfl
  | cons b bs ih => rw [crcOf_cons, ih, mirror8_crcStep]; rfl

/-! ## Encodings (R75, R80) -/

/-- What the port does with a must-be-zero operation follows from its encoding and its opcode (R80). -/
theorem dataMustBeZero_of_encode {op : BitVec 4} {i : Instr} (henc : encode i = opWord op 0x00#8)
    (hop : op = 0x0#4 ∨ op = 0x4#4 ∨ op = 0x5#4 ∨ op = 0x9#4 ∨ op = 0xF#4) : DataMustBeZero op i := by
  refine ⟨henc, fun s d rest live hport => ⟨?_, fun hd => ?_⟩⟩
  · rintro rfl
    exact step_of_encode (hport.trans (by rw [henc]))
  · refine reservedWordRaisesReservedEncoding s _ rest live hport (.inr ⟨?_, ?_⟩)
    · rwa [opField_opWord]
    · rwa [dataField_opWord]

/-! ## The operations of the CRC unit (R87 to R91) -/

theorem exec_live {s : State} (live : s.fault = none) (i : Instr) : exec i s = body i s := by
  rw [exec_eq_accept_body, accept_live live]

theorem withCrc_seeded {s : State} (hseed : s.crcv = true) (w : OpWord) (k : Byte → Answer) :
    withCrc w s k = k s.crc := if_pos hseed

/-- Before any seed, `CrcUnseeded` is recorded with the operation's own word (R27). -/
theorem withCrc_unseeded {s : State} (hseed : s.crcv = false) (w : OpWord) (k : Byte → Answer) :
    withCrc w s k = .next (s.record (.crcUnseeded w)) := if_neg (Bool.not_eq_true _ ▸ hseed)

theorem exec_crcUpd_seeded {s : State} (live : s.fault = none) (hseed : s.crcv = true) (b : Byte) :
    exec (.crcUpd b) s = .next ((s.writeCrc (crcStep s.crc b)).answer emptyRes) := by
  rw [exec_live live, body, withCrc_seeded hseed]
  rfl

theorem exec_crcChk_seeded {s : State} (live : s.fault = none) (hseed : s.crcv = true) (r : Byte) :
    exec (.crcChk r) s = .next (s.answer (matchRes (mirror8 r == s.crc))) := by
  rw [exec_live live, body, withCrc_seeded hseed]
  rfl

/-- An operation that reads `CRC` records `CrcUnseeded` before any seed (R27, R88 to R91). -/
theorem exec_unseeded {s : State} (live : s.fault = none) (hseed : s.crcv = false) {i : Instr}
    (hi : (∃ b, i = .crcUpd b) ∨ (∃ r, i = .crcChk r) ∨ i = .crcRd ∨ i = .crcRdm) :
    exec i s = .next (s.record (.crcUnseeded (encode i))) := by
  rw [exec_live live]
  obtain ⟨b, rfl⟩ | ⟨r, rfl⟩ | rfl | rfl := hi <;> rw [body, withCrc_unseeded hseed]

theorem matchRes_beq (a b : Byte) : matchRes (a == b) = if a = b then 0x00000001#32 else 0x00000000#32 := by
  by_cases h : a = b
  · rw [if_pos h, beq_iff_eq.2 h]
    rfl
  · rw [if_neg h, beq_eq_false_iff_ne.2 h]
    rfl

@[simp] theorem resMatch_matchRes (m : Bool) : resMatch (matchRes m) = m := by
  cases m <;> rfl

/-- An operation that only reads leaves the CRC unit as it was (R98). -/
theorem exec_sameCrcUnit_of_readsOnly {i : Instr} {s t : State} (hi : readsOnly i = true) (h : exec i s = .next t) :
    s.SameCrcUnit t := by
  rw [exec_readsOnly_frame hi h]
  exact ⟨rfl, rfl⟩

/-- An operation of the frame decoder leaves the CRC unit as it was (R8, R98). -/
theorem exec_sameCrcUnit_of_frameDecoder {i : Instr} {s t : State} (hi : opUnit i = .frameDecoder)
    (h : exec i s = .next t) : s.SameCrcUnit t := by
  rw [exec_frameDecoder_frame hi h]
  exact ⟨rfl, rfl⟩

/-! ## Bytes fed after a seed (R93) -/

/-- The block `s` with `c` in a seeded CRC unit and the result of an operation that returns nothing: what a seed, or a byte
fed after one, leaves. -/
def crcHeld (c : Byte) (s : State) : State := { s with crc := c, crcv := true, res := some 0x00000000#32 }

theorem exec_crcSeed_live {s : State} (live : s.fault = none) (b : Byte) :
    exec (.crcSeed b) s = .next (crcHeld (mirror8 b) s) := by
  rw [exec_live live]
  rfl

theorem exec_crcUpd_crcHeld {s : State} (live : s.fault = none) (c b : Byte) :
    exec (.crcUpd b) (crcHeld c s) = .next (crcHeld (crcStep c b) s) :=
  exec_crcUpd_seeded (s := crcHeld c s) live rfl b

theorem exec_crcChk_crcHeld {s : State} (live : s.fault = none) (c r : Byte) :
    exec (.crcChk r) (crcHeld c s) = .next ((crcHeld c s).answer (matchRes (mirror8 r == c))) :=
  exec_crcChk_seeded (s := crcHeld c s) live rfl r

/-- Bytes fed one after another, before any further operations. -/
theorem issue_crcUpd_append {s : State} (live : s.fault = none) (c : Byte) (bs : List Byte) (is : List Instr) :
    issue (bs.map .crcUpd ++ is) (crcHeld c s) =
      (List.replicate bs.length 0x00000000#32 ++ (issue is (crcHeld (crcOf c bs) s)).1,
        (issue is (crcHeld (crcOf c bs) s)).2) := by
  induction bs generalizing c with
  | nil => rfl
  | cons b bs ih =>
    rw [List.map_cons, List.cons_append, issue_cons_next (exec_crcUpd_crcHeld live c b), ih]
    rfl

/-- A seed and the bytes fed after it, before any further operations: every operation returns nothing, and the CRC unit holds
the table-driven CRC-8 of the bytes (R93). -/
theorem issue_crcSeed_crcUpd_append {s : State} (live : s.fault = none) (seed : Byte) (bs : List Byte)
    (is : List Instr) :
    issue (.crcSeed seed :: (bs.map .crcUpd ++ is)) s =
      (List.replicate (bs.length + 1) 0x00000000#32 ++ (issue is (crcHeld (crcByTable (mirror8 seed) bs) s)).1,
        (issue is (crcHeld (crcByTable (mirror8 seed) bs) s)).2) := by
  rw [issue_cons_next (exec_crcSeed_live live seed), issue_crcUpd_append live, crcByTable_eq_crcOf]
  rfl

/-- A seed forgets what the CRC unit held before it (R87). -/
theorem issue_crcSeed_forgets {s : State} (live : s.fault = none) (seed c : Byte) (v : Bool) (is : List Instr) :
    issue (.crcSeed seed :: is) { s with crc := c, crcv := v } = issue (.crcSeed seed :: is) s := by
  rw [issue_cons_next (exec_crcSeed_live live seed),
    issue_cons_next (exec_crcSeed_live (s := { s with crc := c, crcv := v }) live seed)]
  rfl

/-! ## Transactions (R99, R100, R102) -/

theorem mirror8_zero : mirror8 0x00#8 = 0x00#8 := by decide

/-- A seed of zero and one command byte (R100, R102). -/
theorem issue_sendCommand {s : State} (live : s.fault = none) (cmd : Byte) :
    issue (sendCommand cmd) s = ([0x00000000#32, 0x00000000#32], crcHeld (crcByTable 0x00#8 [cmd]) s) := by
  have h := issue_crcSeed_crcUpd_append live 0x00#8 [cmd] []
  rwa [mirror8_zero] at h

/-- The five operations of a transaction that the peripheral answers: the compare is with the CRC-8 of the three bytes (R99). -/
theorem issue_crcTxn {s : State} (live : s.fault = none) (cmd hi lo check : Byte) :
    issue (Pseudo.crcTxn cmd hi lo check).expand s =
      (List.replicate 4 0x00000000#32 ++ [matchRes (mirror8 check == crcByTable 0x00#8 [cmd, hi, lo])],
        (crcHeld (crcByTable 0x00#8 [cmd, hi, lo]) s).answer
          (matchRes (mirror8 check == crcByTable 0x00#8 [cmd, hi, lo]))) := by
  have h := issue_crcSeed_crcUpd_append live 0x00#8 [cmd, hi, lo] [.crcChk check]
  rwa [mirror8_zero, issue_cons_next (exec_crcChk_crcHeld live _ check), issue_nil] at h

/-- How a transaction that the peripheral answers ends, and the block after it (R99). -/
theorem transact_bytes {s : State} (live : s.fault = none) (cmd : Byte) (x : Received) :
    transact cmd (.bytes x) s =
      (if mirror8 x.check = crcByTable 0x00#8 [cmd, x.hi, x.lo] then .success (x.hi ++ x.lo) else .crcError,
        (crcHeld (crcByTable 0x00#8 [cmd, x.hi, x.lo]) s).answer
          (matchRes (mirror8 x.check == crcByTable 0x00#8 [cmd, x.hi, x.lo]))) := by
  have hres (v : Res) : (List.replicate 4 0x00000000#32 ++ [v]).getD 4 0#32 = v := rfl
  rw [transact, transactionOps, issue_crcTxn live, transactionEnd, hres, resMatch_matchRes]
  simp only [beq_iff_eq]

/-- A transaction that the peripheral does not acknowledge, or that times out, ends in that failure after its command (R100). -/
theorem transact_unanswered {s : State} (live : s.fault = none) (cmd : Byte) :
    transact cmd .noAcknowledge s = (.noAcknowledge, crcHeld (crcByTable 0x00#8 [cmd]) s) ∧
      transact cmd .timeout s = (.timeout, crcHeld (crcByTable 0x00#8 [cmd]) s) := by
  rw [transact, transact, transactionOps, transactionOps, issue_sendCommand live]
  exact ⟨rfl, rfl⟩

/-- Every transaction begins with a seed, whatever the bus brings (R99, R100). -/
theorem transactionOps_eq_cons (cmd : Byte) (a : BusAnswer) : ∃ is, transactionOps cmd a = .crcSeed 0x00#8 :: is := by
  cases a <;> exact ⟨_, rfl⟩

/-- No transaction records a fault. -/
theorem transact_live {s : State} (live : s.fault = none) (cmd : Byte) (a : BusAnswer) :
    (transact cmd a s).2.fault = none := by
  obtain ⟨hnoAck, htimeout⟩ := transact_unanswered live cmd
  cases a with
  | noAcknowledge => rw [hnoAck]; exact live
  | timeout => rw [htimeout]; exact live
  | bytes x => rw [transact_bytes live]; exact live

/-- What the bus brought makes a transaction succeed: an answer whose checksum matches. -/
def Delivers (cmd : Byte) (a : BusAnswer) (raw : BitVec 16) : Prop :=
  ∃ x, a = .bytes x ∧ mirror8 x.check = crcByTable 0x00#8 [cmd, x.hi, x.lo] ∧ raw = x.hi ++ x.lo

theorem delivers_bytes {cmd : Byte} {x : Received} {raw : BitVec 16} :
    Delivers cmd (.bytes x) raw ↔ mirror8 x.check = crcByTable 0x00#8 [cmd, x.hi, x.lo] ∧ raw = x.hi ++ x.lo := by
  refine ⟨?_, fun h => ⟨x, rfl, h⟩⟩
  rintro ⟨y, hy, h⟩
  cases hy
  exact h

theorem delivers_unique {cmd : Byte} {a : BusAnswer} {raw raw' : BitVec 16} (h : Delivers cmd a raw)
    (h' : Delivers cmd a raw') : raw = raw' := by
  obtain ⟨x, rfl, -, rfl⟩ := h
  obtain ⟨-, e⟩ := delivers_bytes.1 h'
  exact e.symm

/-- A transaction succeeds exactly on an answer whose checksum matches (R99, R100). -/
theorem transact_success_iff {s : State} (live : s.fault = none) (cmd : Byte) (a : BusAnswer) (raw : BitVec 16) :
    (transact cmd a s).1 = .success raw ↔ Delivers cmd a raw := by
  obtain ⟨hnoAck, htimeout⟩ := transact_unanswered live cmd
  cases a with
  | noAcknowledge => rw [hnoAck]; exact ⟨nofun, nofun⟩
  | timeout => rw [htimeout]; exact ⟨nofun, nofun⟩
  | bytes x =>
    rw [transact_bytes live, delivers_bytes]
    by_cases hmatch : mirror8 x.check = crcByTable 0x00#8 [cmd, x.hi, x.lo]
    · simp [hmatch, eq_comm]
    · simp [hmatch]

/-! ## The measurement cycle (R104) -/

/-- All that a measurement cycle can do: both transactions deliver and the reading is updated, the humidity transaction fails,
or the temperature transaction fails and the cycle ends there. -/
theorem measure_cases (temp hum : BusAnswer) {x : Session} (live : x.block.fault = none) :
    (∃ t h, Delivers Config.cmdTemp temp t ∧ Delivers Config.cmdHum hum h ∧ Session.measure temp hum x =
        { block := (transact Config.cmdHum hum (transact Config.cmdTemp temp x.block).2).2,
          latest := some { temperature := t, humidity := h } }) ∨
      (∃ t, Delivers Config.cmdTemp temp t ∧ (∀ h, ¬ Delivers Config.cmdHum hum h) ∧ Session.measure temp hum x =
        { x with block := (transact Config.cmdHum hum (transact Config.cmdTemp temp x.block).2).2 }) ∨
      ((∀ t, ¬ Delivers Config.cmdTemp temp t) ∧ Session.measure temp hum x =
        { x with block := (transact Config.cmdTemp temp x.block).2 }) := by
  have htemp := transact_success_iff live Config.cmdTemp temp
  have hhum := transact_success_iff (transact_live live Config.cmdTemp temp) Config.cmdHum hum
  unfold Session.measure
  generalize transact Config.cmdTemp temp x.block = p at htemp hhum ⊢
  obtain ⟨e, s⟩ := p
  cases e with
  | success t =>
    dsimp only at hhum ⊢
    generalize transact Config.cmdHum hum s = q at hhum ⊢
    obtain ⟨e', s'⟩ := q
    cases e' with
    | success h => exact .inl ⟨t, h, (htemp t).1 rfl, (hhum h).1 rfl, rfl⟩
    | _ => exact .inr (.inl ⟨t, (htemp t).1 rfl, fun h hd => (nomatch (hhum h).2 hd), rfl⟩)
  | _ => exact .inr (.inr ⟨fun t hd => (nomatch (htemp t).2 hd), rfl⟩)

/-- No measurement cycle records a fault. -/
theorem measure_live (temp hum : BusAnswer) {x : Session} (live : x.block.fault = none) :
    (Session.measure temp hum x).block.fault = none := by
  have htemp := transact_live live Config.cmdTemp temp
  obtain ⟨_, _, -, -, e⟩ | ⟨_, -, -, e⟩ | ⟨-, e⟩ := measure_cases temp hum live <;> rw [e]
  · exact transact_live htemp _ _
  · exact transact_live htemp _ _
  · exact htemp

/-- A cycle in which both transactions deliver updates the reading. -/
theorem measure_latest_of_delivers {temp hum : BusAnswer} {x : Session} {t h : BitVec 16} (live : x.block.fault = none)
    (ht : Delivers Config.cmdTemp temp t) (hh : Delivers Config.cmdHum hum h) :
    (Session.measure temp hum x).latest = some { temperature := t, humidity := h } := by
  obtain ⟨t', h', ht', hh', e⟩ | ⟨_, -, hfail, -⟩ | ⟨hfail, -⟩ := measure_cases temp hum live
  · rw [e, delivers_unique ht ht', delivers_unique hh hh']
  · exact absurd hh (hfail h)
  · exact absurd ht (hfail t)

/-- A cycle in which a transaction delivers nothing leaves the reading as it was. -/
theorem measure_latest_of_not_delivers {temp hum : BusAnswer} {x : Session} (live : x.block.fault = none)
    (hfail : ∀ t h, Delivers Config.cmdTemp temp t → ¬ Delivers Config.cmdHum hum h) :
    (Session.measure temp hum x).latest = x.latest := by
  obtain ⟨t, h, ht, hh, -⟩ | ⟨_, -, -, e⟩ | ⟨-, e⟩ := measure_cases temp hum live
  · exact absurd hh (hfail t h ht)
  · rw [e]
  · rw [e]

/-! ## The statements -/

/-- Settles O16: both sides say that the mirrored byte is the register. -/
theorem feedingLeavesZeroExactlyOnTheRegister : Obligations.FeedingLeavesZeroExactlyOnTheRegister := by
  refine ⟨crcStep_eq_zero_iff, fun s r live hseed => ?_⟩
  have hchk : exec (.crcChk r) s = .next { s with res := some 0x00000001#32 } ↔ mirror8 r = s.crc := by
    rw [exec_crcChk_seeded live hseed, matchRes_beq]
    refine reply_eq_next_answer.trans ?_
    by_cases h : mirror8 r = s.crc <;> simp [h]
  have hupd : exec (.crcUpd (mirror8 r)) s = .next { s with crc := 0x00#8, res := some 0x00000000#32 } ↔
      crcStep s.crc (mirror8 r) = 0x00#8 := by
    rw [exec_crcUpd_seeded live hseed]
    refine ⟨fun h => congrArg State.crc (Host.Outcome.next.inj h), fun h => ?_⟩
    rw [h]
    rfl
  rw [hchk, hupd, crcStep_eq_zero_iff]

/-- Settles O17: a step can be undone in the byte and in the register, so one changed byte is never lost. -/
theorem crcIsLinearAndDetectsOneChangedByte : Obligations.CrcIsLinearAndDetectsOneChangedByte := by
  refine ⟨fun c₁ c₂ b₁ b₂ => crcStep_xor c₁ b₁ c₂ b₂, crcOf_replicate_zero, fun c b b' before after hne h => hne ?_⟩
  rw [crcOf_append, crcOf_append, crcOf_cons, crcOf_cons] at h
  exact crcStep_byte_injective (crcOf_injective h)

/-- Settles O18, by induction on the bytes in `issue_crcUpd_append`. -/
theorem fedBytesGiveTheTableDrivenCrc : Obligations.FedBytesGiveTheTableDrivenCrc := by
  intro seed bs s live
  have h := issue_crcSeed_crcUpd_append live seed bs []
  rw [List.append_nil] at h
  rw [h, issue_nil, List.append_nil]
  rfl

/-- Settles O19: by O18 the register is the CRC-8 of the bytes, and mirroring commutes with every round. -/
theorem mirroredRegisterIsTheReflectedCrc : Obligations.MirroredRegisterIsTheReflectedCrc := by
  intro seed bs s live
  refine ⟨crcByTable (mirror8 seed) bs, by rw [fedBytesGiveTheTableDrivenCrc seed bs s live], ?_⟩
  rw [crcByTable_eq_crcOf, mirror8_crcOf, mirror8_mirror8]

/-- Settles O20: every other operation only reads or belongs to the frame decoder. -/
theorem onlySeedUpdRstWriteTheCrcUnit : Obligations.OnlySeedUpdRstWriteTheCrcUnit := by
  intro i s t h hne
  cases i with
  | crcSeed b => exact .inl ⟨b, rfl⟩
  | crcUpd b => exact .inr (.inl ⟨b, rfl⟩)
  | rst => exact .inr (.inr rfl)
  | fdPush b => exact absurd (exec_sameCrcUnit_of_frameDecoder rfl h) hne
  | _ => exact absurd (exec_sameCrcUnit_of_readsOnly rfl h) hne

/-- Settles O51: the end and the last block are those of `transact_bytes`, the five results those of `issue_crcTxn`. -/
theorem transactionSucceedsExactlyOnItsChecksum : Obligations.TransactionSucceedsExactlyOnItsChecksum := by
  intro cmd x s live
  rw [issue_crcTxn live, transact_bytes live]
  exact ⟨rfl, rfl, rfl, ⟨rfl, rfl, rfl, rfl, rfl, rfl⟩, live⟩

/-- Settles O52: what the bus brought decides what each transaction delivers, and `measure_cases` what the cycle does with
it. -/
theorem measurementCycleNeedsBothTransactions : Obligations.MeasurementCycleNeedsBothTransactions := by
  intro temp hum x live
  refine ⟨measure_live temp hum live, ?_, fun hfail => ?_⟩
  · split
    next t h =>
      split
      next hmatch =>
        obtain ⟨ht, hh⟩ := hmatch
        exact measure_latest_of_delivers live (delivers_bytes.2 ⟨ht, rfl⟩) (delivers_bytes.2 ⟨hh, rfl⟩)
      next hmatch =>
        refine measure_latest_of_not_delivers live fun _ _ ht hh => hmatch ?_
        obtain ⟨ht, -⟩ := delivers_bytes.1 ht
        obtain ⟨hh, -⟩ := delivers_bytes.1 hh
        exact ⟨ht, hh⟩
    next hnot =>
      refine measure_latest_of_not_delivers live fun _ _ ht hh => ?_
      obtain ⟨x, rfl, -⟩ := ht
      obtain ⟨y, rfl, -⟩ := hh
      exact hnot x y rfl rfl
  · simp only [ne_eq, transact_success_iff live] at hfail
    obtain ⟨t, _, ht, -, -⟩ | ⟨t, ht, -, -⟩ | ⟨-, e⟩ := measure_cases temp hum live
    · exact absurd ht (hfail t)
    · exact absurd ht (hfail t)
    · rw [e]

/-- Settles O9, by the encoding and the meaning of the one operation. -/
theorem crcSeedWritesTheMirroredByte : Obligations.CrcSeedWritesTheMirroredByte :=
  ⟨dataIsOperand_of_encode fun _ => rfl, fun b _ live => exec_crcSeed_live live b⟩

/-- Settles O10: the two cases of the read of `CRC`. -/
theorem crcUpdFeedsOneByte : Obligations.CrcUpdFeedsOneByte :=
  ⟨dataIsOperand_of_encode fun _ => rfl, fun b _ live =>
    ⟨fun hseed => exec_crcUpd_seeded live hseed b, fun hseed => exec_unseeded live hseed (.inl ⟨b, rfl⟩)⟩⟩

/-- Settles O11: the byte that matches a register is the register mirrored. -/
theorem crcChkComparesTheMirroredByte : Obligations.CrcChkComparesTheMirroredByte := by
  refine ⟨dataIsOperand_of_encode fun _ => rfl, fun r s live => ⟨fun hseed => ?_, fun hseed => ?_⟩,
    fun c => ⟨mirror8 c, fun r => ?_⟩⟩
  · rw [exec_crcChk_seeded live hseed, matchRes_beq]
    rfl
  · exact exec_unseeded live hseed (.inr (.inl ⟨r, rfl⟩))
  · exact ⟨fun h => by rw [← h, mirror8_mirror8], fun h => by rw [h, mirror8_mirror8]⟩

/-- Settles O12: the two cases of the read of `CRC`, neither of which writes the register. -/
theorem crcRdReturnsTheRegister : Obligations.CrcRdReturnsTheRegister := by
  refine ⟨dataMustBeZero_of_encode rfl (by decide), fun s live => ⟨fun hseed => ?_, fun hseed => ?_⟩⟩
  · rw [exec_live live, body, withCrc_seeded hseed]
    rfl
  · exact exec_unseeded live hseed (.inr (.inr (.inl rfl)))

/-- Settles O13: mirrored again, the returned byte is the register. -/
theorem crcRdmReturnsTheMatchingByte : Obligations.CrcRdmReturnsTheMatchingByte := by
  refine ⟨dataMustBeZero_of_encode rfl (by decide), fun s live => ⟨fun hseed => ⟨?_, ?_⟩, fun hseed => ?_⟩⟩
  · rw [exec_live live, body, withCrc_seeded hseed]
    rfl
  · rw [exec_crcChk_seeded live hseed, mirror8_mirror8, matchRes_beq, if_pos rfl]
    rfl
  · exact exec_unseeded live hseed (.inr (.inr (.inr rfl)))

/-- Settles O15: by linearity, and by the 256 entries of the table. -/
theorem crcStepIsOneTableLookup : Obligations.CrcStepIsOneTableLookup :=
  fun c b => ⟨crcStep_eq_zero_register c b, (crcTableStep_eq c b).symm⟩

/-- Settles O53: the command byte fed to a zero register is the table's entry at the byte itself. -/
theorem busRecoveryLeavesTheSoftResetCrc : Obligations.BusRecoveryLeavesTheSoftResetCrc := by
  intro s live
  have hentry : crcByTable 0x00#8 [Config.cmdSoftReset] = crcTable.getD Config.cmdSoftReset.toNat 0x00#8 := by
    rw [crcByTable, List.foldl_cons, List.foldl_nil, crcTableStep, BitVec.zero_xor]
  rw [busRecovery, issue_sendCommand live, hentry]
  rfl

/-- Settles O57: every transaction begins with a seed, which forgets what the unit held. -/
theorem failedTransactionStopsAfterItsCommand : Obligations.FailedTransactionStopsAfterItsCommand := by
  refine ⟨fun cmd s live => transact_unanswered live cmd, fun cmd a s c v live => ?_⟩
  obtain ⟨is, hops⟩ := transactionOps_eq_cons cmd a
  rw [transact, transact, hops, issue_crcSeed_forgets live]

end Sys2Proof.Proofs
end

section
/-!
PROOFS. The statements about 41_frame_decoder.md: one pushed byte in each decoder state (R108 to R111, R118), the buffer and
register reads (R113 to R115), the frame sum as an invariant (R116, R119), a whole frame (R117, R121), the way back to
`AWAIT_HEADER` and what is forgotten there (R120, R122), and the reader's publication (R127).
-/

namespace Sys2Proof.Proofs

open Sys2Proof.Machine Sys2Proof.Laws

/-! ## The block after one byte, by decoder state (R108 to R111) -/

theorem pushed_header {s : State} (h : s.st = .awaitHeader) (b : Byte) :
    pushed b s =
      { s with
        ck := b
        st := if b = headerMarker then .awaitLength else .awaitHeader
        res := some 0#32 } := by
  rw [pushed, pushArm_header h, pushHeader, pushRes_quiet]
  rfl

theorem pushed_length_accepted {s : State} (h : s.st = .awaitLength) {b : Byte} (hb : b.toNat ≤ s.config.cap) :
    pushed b s =
      { s with
        ck := s.ck + b
        len := b
        idx := 0x00#8
        st := if b = 0x00#8 then .awaitChecksum else .accumulatePayload
        res := some 0#32 } := by
  rw [pushed, pushArm_length h, pushLength, if_pos hb, pushRes_quiet]
  rfl

theorem pushed_length_overflow {s : State} (h : s.st = .awaitLength) {b : Byte} (hb : s.config.cap < b.toNat) :
    pushed b s = { s with ck := s.ck + b, st := .awaitHeader, res := some 4#32 } := by
  rw [pushed, pushArm_length h, pushLength, if_neg (Nat.not_le.2 hb), pushRes_overflow]
  rfl

theorem pushed_payload {s : State} (h : s.st = .accumulatePayload) (b : Byte) :
    pushed b s =
      { s with
        ck := s.ck + b
        buf := Memory.write s.config.cap s.buf s.idx.toNat b
        idx := s.idx + 1#8
        st := if s.idx + 1#8 = s.len then .awaitChecksum else .accumulatePayload
        res := some 0#32 } := by
  rw [pushed, pushArm_payload h, pushPayload, pushRes_quiet]
  rfl

/-- The result of a completed frame: `DONE`, with `OK` on a sum of zero. -/
theorem pushRes_done (sum : Byte) :
    pushRes { done := true, ok := sum == 0x00#8, ovf := false } = if sum = 0x00#8 then 3#32 else 1#32 := by
  by_cases h : sum = 0x00#8
  · rw [if_pos h, beq_iff_eq.2 h]
    rfl
  · rw [if_neg h, beq_eq_false_iff_ne.2 h]
    rfl

theorem pushed_checksum {s : State} (h : s.st = .awaitChecksum) (b : Byte) :
    pushed b s =
      { s with
        ck := s.ck + b
        st := .awaitHeader
        res := some (if s.ck + b = 0x00#8 then 3#32 else 1#32) } := by
  rw [← pushRes_done, pushed, pushArm_checksum h]
  rfl

/-- A push that reaches a next state reaches `pushed`. -/
theorem exec_fdPush_next {b : Byte} {s t : State} (h : exec (.fdPush b) s = .next t) : t = pushed b s := by
  obtain ⟨live, -⟩ := exec_next.1 h
  exact Host.Outcome.next.inj (h.symm.trans (exec_fdPush_live live b))

/-! ## Which cells a byte leaves alone (R33, R118) -/

theorem pushed_buf_of_ne {s : State} (h : s.st ≠ .accumulatePayload) (b : Byte) : (pushed b s).buf = s.buf := by
  obtain ⟨hst, -⟩ | ⟨-, hbuf⟩ := pushArm_buf b s
  · exact absurd hst h
  · exact hbuf

/-- A push changes at most the cell at `IDX`, and that one only below the capacity. -/
theorem read_pushed {s : State} {a : Nat} (b : Byte) (h : a ≠ s.idx.toNat ∨ s.config.cap ≤ a) :
    Memory.read (pushed b s).buf a = Memory.read s.buf a := by
  obtain ⟨-, hbuf⟩ | ⟨-, hbuf⟩ := pushArm_buf b s
  · refine (congrArg (Memory.read · a) hbuf).trans ?_
    rw [read_write, if_neg]
    omega
  · exact congrArg (Memory.read · a) hbuf

/-! ## The reads of the buffer that fault (R113, R114, R139) -/

theorem inRange_out {w : OpWord} {o top : Nat} {s : State} {k : Answer} (h : s.config.cap ≤ top) :
    inRange w o top s k = .next (s.record (.bufRange w o)) := if_pos h

theorem inRange_in {w : OpWord} {o top : Nat} {s : State} {k : Answer} (h : top < s.config.cap) :
    inRange w o top s k = k := if_neg (Nat.not_le.2 h)

theorem withCell_unwritten {w : OpWord} {a : Nat} {s : State} {k : Byte → Answer} (h : Memory.read s.buf a = none) :
    withCell w a s k = .next (s.record (.bufUnwritten w a)) := by
  rw [withCell, h, raise]

theorem withCell_written {w : OpWord} {a : Nat} {s : State} {k : Byte → Answer} {b : Byte}
    (h : Memory.read s.buf a = some b) : withCell w a s k = k b := by
  rw [withCell, h]

/-! ## The fields of `FD.STAT` (R115) -/

/-- Each register is found at the place where `statRes` puts it: what stands below it is skipped, what stands above it is cut
off. -/
theorem statRes_fields (s : State) :
    (statRes s).extractLsb' 24 8 = s.idx ∧ (statRes s).extractLsb' 16 8 = s.len ∧
      (statRes s).extractLsb' 8 8 = s.ck ∧ (statRes s).extractLsb' 2 6 = 0#6 ∧
      (statRes s).extractLsb' 0 2 = s.st.bits := by
  unfold statRes
  refine ⟨?_, ?_, ?_, ?_, BitVec.extractLsb'_append_eq_right⟩ <;> rw [BitVec.extractLsb'_append_eq_of_le (by decide)]
  · rw [BitVec.extractLsb'_append_eq_of_le (by decide), BitVec.extractLsb'_append_eq_of_le (by decide)]
    exact BitVec.extractLsb'_append_eq_left
  · rw [BitVec.extractLsb'_append_eq_of_le (by decide), BitVec.extractLsb'_append_eq_of_le (by decide)]
    exact BitVec.extractLsb'_append_eq_right
  · rw [BitVec.extractLsb'_append_eq_of_le (by decide)]
    exact BitVec.extractLsb'_append_eq_right
  · exact BitVec.extractLsb'_append_eq_right

/-! ## The frame sum (R116, R119) -/

theorem frameSum_eq_some {s : State} {c : Byte} :
    s.frameSum = some c ↔ ∃ p, Memory.take s.buf s.idx.toNat = some p ∧ headerMarker + s.len + sumByte p = c :=
  Option.map_eq_some_iff

/-- The sum speaks of the frame decoder alone. -/
theorem sumInv_of_sameFrameDecoder {s t : State} (hs : s.SameFrameDecoder t) (h : s.SumInv) : t.SumInv := by
  obtain ⟨-, hst, hck, hlen, hidx, hbuf⟩ := hs
  unfold State.SumInv State.frameSum at h ⊢
  rwa [← hst, ← hck, ← hlen, ← hidx, ← hbuf]

/-- Between frames `CK` means nothing. -/
theorem sumInv_of_awaitHeader {s : State} (h : s.st = .awaitHeader) : s.SumInv := by
  refine ⟨?_, ?_, ?_⟩ <;> rw [h] <;> exact nofun

/-- Inside the payload and at the checksum the meaning of `CK` is one equation. -/
theorem sumInv_of_frameSum {s : State} (hst : s.st ≠ .awaitLength) (h : s.frameSum = some s.ck) : s.SumInv :=
  ⟨fun hlen => absurd hlen hst, fun _ => h, fun _ => h⟩

theorem sumInv_pushed_header {s : State} (hst : s.st = .awaitHeader) (b : Byte) : (pushed b s).SumInv := by
  rw [pushed_header hst]
  by_cases hb : b = headerMarker
  · rw [if_pos hb]
    exact ⟨fun _ => hb, nofun, nofun⟩
  · rw [if_neg hb]
    exact sumInv_of_awaitHeader rfl

theorem sumInv_pushed_length {s : State} (hst : s.st = .awaitLength) (hsum : s.SumInv) (b : Byte) :
    (pushed b s).SumInv := by
  obtain ⟨hck, -, -⟩ := hsum
  by_cases hb : b.toNat ≤ s.config.cap
  · rw [pushed_length_accepted hst hb]
    refine sumInv_of_frameSum (by dsimp only; split <;> exact nofun) (frameSum_eq_some.2 ⟨[], rfl, ?_⟩)
    simp only [sumByte, hck hst, BitVec.add_zero]
  · rw [pushed_length_overflow hst (Nat.not_le.1 hb)]
    exact sumInv_of_awaitHeader rfl

/-- The payload byte joins the sum and the cells that are summed, at the one new index. -/
theorem sumInv_pushed_payload {s : State} (hst : s.st = .accumulatePayload) (hinv : s.Inv) (hsum : s.SumInv) (b : Byte) :
    (pushed b s).SumInv := by
  obtain ⟨-, -, -, -, hlen, hidx, -⟩ := hinv
  obtain ⟨-, hck, -⟩ := hsum
  obtain ⟨p, hp, hck⟩ := frameSum_eq_some.1 (hck hst)
  have hlt : s.idx.toNat < s.len.toNat := hidx hst
  rw [pushed_payload hst]
  refine sumInv_of_frameSum (by dsimp only; split <;> exact nofun) (frameSum_eq_some.2 ⟨p ++ [b], ?_, ?_⟩)
  · simp only [toNat_add_one hlt]
    exact take_write_next (Nat.lt_of_lt_of_le hlt hlen) hp
  · simp only [sumByte_append, sumByte, BitVec.add_zero, ← hck, BitVec.add_assoc]

/-- Every byte keeps `CK` the sum of the current frame's bytes so far. -/
theorem sumInv_pushed {s : State} (hinv : s.Inv) (hsum : s.SumInv) (b : Byte) : (pushed b s).SumInv := by
  cases hst : s.st with
  | awaitHeader => exact sumInv_pushed_header hst b
  | awaitLength => exact sumInv_pushed_length hst hsum b
  | accumulatePayload => exact sumInv_pushed_payload hst hinv hsum b
  | awaitChecksum =>
    rw [pushed_checksum hst]
    exact sumInv_of_awaitHeader rfl

/-! ## Streams of bytes (R43) -/

theorem pushAll_append {s : State} (live : s.fault = none) (bs cs : List Byte) :
    pushAll (bs ++ cs) s =
      ((pushAll bs s).1 ++ (pushAll cs (pushAll bs s).2).1, (pushAll cs (pushAll bs s).2).2) := by
  induction bs generalizing s with
  | nil => rfl
  | cons b bs ih =>
    rw [List.cons_append, pushAll_cons_live live, pushAll_cons_live live, ih ((pushed_fault b s).trans live)]
    rfl

/-! ## A whole frame (R116, R117, R121) -/

/-- The bytes of a payload extend the frame, quietly, and leave every cell beyond them alone. -/
theorem pushAll_payload {n : Byte} {p q : List Byte} {s : State} (h : InFrame n p s)
    (hlen : p.length + q.length ≤ n.toNat) :
    (pushAll q s).1 = List.replicate q.length 0x00000000#32 ∧ InFrame n (p ++ q) (pushAll q s).2 ∧
      ∀ a, p.length + q.length ≤ a → Memory.read (pushAll q s).2.buf a = Memory.read s.buf a := by
  induction q generalizing p s with
  | nil => exact ⟨rfl, by rwa [List.append_nil], fun _ _ => rfl⟩
  | cons b q ih =>
    rw [List.length_cons] at hlen ⊢
    obtain ⟨hquiet, hnext⟩ := inFrame_push h (by omega) b
    have hadd : (p ++ [b]).length + q.length = p.length + (q.length + 1) := by
      rw [List.length_append, List.length_singleton]
      omega
    obtain ⟨hres, hframe, hcells⟩ := ih hnext (hadd ▸ hlen)
    rw [pushAll_cons_live h.held.live, hquiet, pushRes_quiet, hres]
    refine ⟨rfl, by rwa [List.append_assoc] at hframe, fun a ha => ?_⟩
    have hidx := h.idx
    exact (hcells a (hadd ▸ ha)).trans (read_pushed b (.inl (by omega)))

/-- Header and length, pushed, begin a frame quietly and write no cell. -/
theorem pushAll_begin {s : State} {n : Byte} (live : s.fault = none) (hst : s.st = .awaitHeader)
    (hn : n.toNat ≤ s.config.cap) :
    (pushAll [headerMarker, n] s).1 = [0x00000000#32, 0x00000000#32] ∧ InFrame n [] (pushAll [headerMarker, n] s).2 ∧
      (pushAll [headerMarker, n] s).2.buf = s.buf := by
  obtain ⟨hheader, hlength, hframe⟩ := inFrame_begin live hst hn
  rw [pushAll_cons_live live, pushAll_cons_live ((pushed_fault _ s).trans live), pushAll_nil, hheader, hlength,
    pushRes_quiet]
  refine ⟨rfl, hframe, ?_⟩
  have hseek : (pushed headerMarker s).st ≠ .accumulatePayload := by
    rw [pushed_header hst, if_pos rfl]
    exact nofun
  exact (pushed_buf_of_ne hseek n).trans (pushed_buf_of_ne (by rw [hst]; exact nofun) headerMarker)

/-- The checksum byte, pushed, completes the frame and writes no cell. -/
theorem pushAll_checksum {n : Byte} {p : List Byte} {s : State} (h : InFrame n p s) (hp : p.length = n.toNat) (c : Byte) :
    ∃ t, pushAll [c] s = ([if headerMarker + n + sumByte p + c = 0x00#8 then 0x00000003#32 else 0x00000001#32], t) ∧
      HoldsPayload p t ∧ t.st = .awaitHeader ∧ t.buf = s.buf := by
  have hst : s.st = .awaitChecksum := h.st.trans (if_pos hp)
  obtain ⟨hsignals, hheld⟩ := inFrame_checksum h hp c
  refine ⟨pushed c s, ?_, hheld, ?_, pushed_buf_of_ne (by rw [hst]; exact nofun) c⟩
  · rw [pushAll_cons_live h.held.live, pushAll_nil, hsignals, pushRes_done]
  · rw [pushed_checksum hst]

/-! ## The way back to `AWAIT_HEADER` (R120) -/

/-- How many further bytes the decoder can take at most before it is in `AWAIT_HEADER`. -/
def bytesToHeader (s : State) : Nat :=
  match s.st with
  | .awaitHeader => 0
  | .awaitLength => s.config.cap + 2
  | .accumulatePayload => s.len.toNat - s.idx.toNat + 1
  | .awaitChecksum => 1

theorem bytesToHeader_eq_zero {s : State} : bytesToHeader s = 0 ↔ s.st = .awaitHeader := by
  unfold bytesToHeader
  cases s.st <;> simp

/-- At worst the length is still awaited, and is then the capacity. -/
theorem bytesToHeader_le {s : State} (h : s.Inv) : bytesToHeader s ≤ s.config.cap + 2 := by
  obtain ⟨-, -, -, -, hlen, -, -⟩ := h
  unfold bytesToHeader
  cases s.st <;> dsimp only <;> omega

theorem inv_pushed {s : State} (h : s.Inv) (b : Byte) : (pushed b s).Inv := inv_pushArm b h

/-- Every byte but a header found in `AWAIT_HEADER` brings the decoder nearer to `AWAIT_HEADER`, or keeps it there. -/
theorem bytesToHeader_pushed {s : State} {b : Byte} (hinv : s.Inv) (hb : s.st = .awaitHeader → b ≠ headerMarker) :
    bytesToHeader (pushed b s) ≤ bytesToHeader s - 1 := by
  cases hst : s.st with
  | awaitHeader =>
    rw [pushed_header hst, if_neg (hb hst)]
    exact Nat.zero_le _
  | awaitLength =>
    by_cases hcap : b.toNat ≤ s.config.cap
    · rw [pushed_length_accepted hst hcap]
      by_cases hzero : b = 0x00#8
      · simp [bytesToHeader, hst, hzero]
      · simpa [bytesToHeader, hst, hzero] using hcap
    · rw [pushed_length_overflow hst (Nat.not_le.1 hcap)]
      exact Nat.zero_le _
  | accumulatePayload =>
    obtain ⟨-, -, -, -, -, hidx, -⟩ := hinv
    have hlt : s.idx.toNat < s.len.toNat := hidx hst
    rw [pushed_payload hst]
    by_cases hlast : s.idx + 1#8 = s.len
    · simp only [bytesToHeader, hst, if_pos hlast]
      omega
    · simp only [bytesToHeader, hst, if_neg hlast, toNat_add_one hlt]
      omega
  | awaitChecksum =>
    rw [pushed_checksum hst]
    exact Nat.zero_le _

/-- Bytes other than the header bring the decoder nearer one by one. -/
theorem bytesToHeader_pushAll {s : State} {bs : List Byte} (live : s.fault = none) (hinv : s.Inv)
    (hbs : ∀ b ∈ bs, b ≠ headerMarker) : bytesToHeader (pushAll bs s).2 ≤ bytesToHeader s - bs.length := by
  induction bs generalizing s with
  | nil => exact Nat.le_refl _
  | cons b bs ih =>
    obtain ⟨hb, hbs⟩ := List.forall_mem_cons.1 hbs
    have hhead := bytesToHeader_pushed hinv fun _ => hb
    have htail := ih ((pushed_fault b s).trans live) (inv_pushed hinv b) hbs
    rw [pushAll_cons_live live, List.length_cons]
    dsimp only
    omega

/-- From outside `AWAIT_HEADER`, enough bytes pass through it, whatever they are. -/
theorem exists_take_awaitHeader {s : State} {bs : List Byte} (live : s.fault = none) (hinv : s.Inv)
    (hst : s.st ≠ .awaitHeader) (hlen : bytesToHeader s ≤ bs.length) :
    ∃ k, 1 ≤ k ∧ k ≤ bs.length ∧ (pushAll (bs.take k) s).2.st = .awaitHeader := by
  induction bs generalizing s with
  | nil => exact absurd (bytesToHeader_eq_zero.1 (Nat.le_zero.1 hlen)) hst
  | cons b bs ih =>
    rw [List.length_cons] at hlen ⊢
    by_cases hnext : (pushed b s).st = .awaitHeader
    · refine ⟨1, Nat.le_refl 1, by omega, ?_⟩
      rw [List.take_succ_cons, pushAll_cons_live live]
      exact hnext
    · have hnear := bytesToHeader_pushed (b := b) hinv fun h => absurd h hst
      obtain ⟨k, -, hk, hend⟩ := ih ((pushed_fault b s).trans live) (inv_pushed hinv b) hnext (by omega)
      refine ⟨k + 1, by omega, by omega, ?_⟩
      rw [List.take_succ_cons, pushAll_cons_live live]
      exact hend

/-! ## What `AWAIT_HEADER` forgets (R122) -/

/-- Two decoders that have read the same bytes since `AWAIT_HEADER`: they agree on every register that the state they are in
will read again. -/
structure DecodesAlike (s s' : State) : Prop where
  config : s.config = s'.config
  st : s.st = s'.st
  ck : s.st ≠ .awaitHeader → s.ck = s'.ck
  len : s.st = .accumulatePayload → s.len = s'.len
  idx : s.st = .accumulatePayload → s.idx = s'.idx

theorem decodesAlike_of_awaitHeader {s s' : State} (hcfg : s.config = s'.config) (h : s.st = .awaitHeader)
    (h' : s'.st = .awaitHeader) : DecodesAlike s s' where
  config := hcfg
  st := h.trans h'.symm
  ck hne := absurd h hne
  len hp := nomatch h.symm.trans hp
  idx hp := nomatch h.symm.trans hp

/-- One byte gets the same result from both, and they still decode alike. -/
theorem decodesAlike_pushed {s s' : State} (h : DecodesAlike s s') (b : Byte) :
    (pushed b s).res = (pushed b s').res ∧ DecodesAlike (pushed b s) (pushed b s') := by
  obtain ⟨hcfg, hst', hck, hlen, hidx⟩ := h
  cases hst : s.st with
  | awaitHeader =>
    rw [hst] at hst'
    rw [pushed_header hst, pushed_header hst'.symm]
    refine ⟨rfl, hcfg, rfl, fun _ => rfl, ?_, ?_⟩ <;> dsimp only <;> split <;> exact nofun
  | awaitLength =>
    rw [hst] at hst' hck
    by_cases hb : b.toNat ≤ s.config.cap
    · rw [pushed_length_accepted hst hb, pushed_length_accepted hst'.symm (hcfg ▸ hb), hck nofun]
      exact ⟨rfl, hcfg, rfl, fun _ => rfl, fun _ => rfl, fun _ => rfl⟩
    · rw [pushed_length_overflow hst (Nat.not_le.1 hb), pushed_length_overflow hst'.symm (hcfg ▸ Nat.not_le.1 hb)]
      exact ⟨rfl, decodesAlike_of_awaitHeader hcfg rfl rfl⟩
  | accumulatePayload =>
    rw [hst] at hst' hck hlen hidx
    rw [pushed_payload hst, pushed_payload hst'.symm, hck nofun, hlen rfl, hidx rfl]
    exact ⟨rfl, hcfg, rfl, fun _ => rfl, fun _ => rfl, fun _ => rfl⟩
  | awaitChecksum =>
    rw [hst] at hst' hck
    rw [pushed_checksum hst, pushed_checksum hst'.symm, hck nofun]
    exact ⟨rfl, decodesAlike_of_awaitHeader hcfg rfl rfl⟩

theorem pushAll_of_decodesAlike {s s' : State} (h : DecodesAlike s s') (live : s.fault = none) (live' : s'.fault = none)
    (bs : List Byte) : (pushAll bs s).1 = (pushAll bs s').1 ∧ (pushAll bs s).2.st = (pushAll bs s').2.st := by
  induction bs generalizing s s' with
  | nil => exact ⟨rfl, h.st⟩
  | cons b bs ih =>
    obtain ⟨hres, hnext⟩ := decodesAlike_pushed h b
    obtain ⟨hshown, hst⟩ := ih hnext ((pushed_fault b s).trans live) ((pushed_fault b s').trans live')
    have hsignals : pushRes (pushArm b s).2 = pushRes (pushArm b s').2 := Option.some.inj hres
    rw [pushAll_cons_live live, pushAll_cons_live live', hsignals, hshown]
    exact ⟨rfl, hst⟩

/-! ## The statements -/

/-- Settles O42: a step keeps the decoder, pushes a byte or resets the decoder, and each keeps the sum. -/
theorem everyStepKeepsTheFrameSum : Obligations.EveryStepKeepsTheFrameSum := by
  intro s t hinv hsum h
  obtain hsame | ⟨b, hpush⟩ | hrst := step_frameDecoder_cases h
  · exact sumInv_of_sameFrameDecoder hsame hsum
  · exact sumInv_of_sameFrameDecoder (s := pushed b s) hpush (sumInv_pushed hinv hsum b)
  · exact sumInv_of_sameFrameDecoder hrst (sumInv_of_awaitHeader rfl)

/-- Settles O26: the payload arm's write is bounded by the capacity, and the overflow writes nothing. -/
theorem pushNeverWritesPastCapacity : Obligations.PushNeverWritesPastCapacity := by
  intro b s t h
  obtain rfl := exec_fdPush_next h
  refine ⟨fun a ha => read_pushed b (.inr ha), fun hst hb => ?_⟩
  rw [pushed_length_overflow hst hb]
  exact ⟨rfl, rfl⟩

/-- Settles O45: the frame is pushed in its three parts, each by the lemma about `InFrame` for it. -/
theorem frameFromAwaitHeaderIsDecoded : Obligations.FrameFromAwaitHeaderIsDecoded := by
  intro f s live hst hfits
  obtain ⟨hbyte, hcap⟩ : f.payload.length ≤ 255 ∧ f.payload.length ≤ s.config.cap := by
    simpa [Frame.fits, Frame.wellFormed] using hfits
  have hlen : f.lengthByte.toNat = f.payload.length := Nat.mod_eq_of_lt (by omega)
  have hbytes : f.bytes = [headerMarker, f.lengthByte] ++ (f.payload ++ [f.checksum]) := rfl
  obtain ⟨hbegin, hframe, hbuf⟩ := pushAll_begin live hst (hlen.symm ▸ hcap)
  obtain ⟨hquiet, hwhole, hcells⟩ := pushAll_payload (q := f.payload) hframe (by rw [hlen, List.length_nil]; omega)
  obtain ⟨t, hdone, hheld, hend, hkeep⟩ := pushAll_checksum hwhole hlen.symm f.checksum
  refine ⟨t, ?_, hheld.live, hend, hheld.cells, fun a ha => ?_⟩
  · rw [hbytes, pushAll_append live, hbegin, pushAll_append hframe.held.live, hquiet, hdone, List.nil_append]
    simp only [valid_iff_sumByte]
    rfl
  · rw [hkeep, hcells a (by rwa [List.length_nil, Nat.zero_add]), hbuf]

/-- Settles O47, by the measure `bytesToHeader`, which the invariant bounds by `CAP + 2` and which every such push lowers. -/
theorem capacityPlusTwoPushesReturnToHeader : Obligations.CapacityPlusTwoPushesReturnToHeader := by
  intro s bs live hinv hlen
  have hbound : bytesToHeader s ≤ bs.length := hlen ▸ bytesToHeader_le hinv
  refine ⟨fun hbs => ?_, fun hst => exists_take_awaitHeader live hinv hst hbound⟩
  have hend := bytesToHeader_pushAll live hinv hbs
  exact bytesToHeader_eq_zero.1 (by omega)

/-- Refutes O48: at capacity 17, the header, the length 17 and 17 payload bytes from power-on are 19 pushes, after none of
which the decoder is in `AWAIT_HEADER`. -/
theorem not_anyCapacityPlusTwoPushesPassThroughHeader : ¬ Obligations.AnyCapacityPlusTwoPushesPassThroughHeader := by
  intro h
  obtain ⟨k, hlow, hhigh, hst⟩ :=
    h (State.powerOn { cap := 17 }) (0x16#8 :: 17#8 :: List.replicate 17 0x00#8) rfl (by decide) rfl
  have hnever : ∀ k < 20, 1 ≤ k →
      (pushAll ((0x16#8 :: 17#8 :: List.replicate 17 0x00#8).take k) (State.powerOn { cap := 17 })).2.st ≠
        .awaitHeader := by
    decide
  exact hnever k (Nat.lt_succ_of_le hhigh) hlow hst

/-- Settles O49: in `AWAIT_HEADER` any two decoders of one capacity decode alike, and every byte keeps them so. -/
theorem nothingBeforeAwaitHeaderAffectsDecoding : Obligations.NothingBeforeAwaitHeaderAffectsDecoding :=
  fun bs _ _ live live' h h' hcfg => pushAll_of_decodesAlike (decodesAlike_of_awaitHeader hcfg h h') live live' bs

/-- Settles O21, by the header arm of a push. -/
theorem pushInAwaitHeader : Obligations.PushInAwaitHeader :=
  fun b _ live hst => (exec_fdPush_live live b).trans (congrArg _ (pushed_header hst b))

/-- Settles O22: the two branches of the length test. -/
theorem pushInAwaitLength : Obligations.PushInAwaitLength :=
  fun b _ live hst =>
    ⟨fun hb => (exec_fdPush_live live b).trans (congrArg _ (pushed_length_accepted hst hb)),
      fun hb => (exec_fdPush_live live b).trans (congrArg _ (pushed_length_overflow hst hb))⟩

/-- Settles O23: the buffer afterwards is the one write at `IDX`. -/
theorem pushInAccumulatePayload : Obligations.PushInAccumulatePayload := by
  intro b s live hst
  refine ⟨Memory.write s.config.cap s.buf s.idx.toNat b,
    (exec_fdPush_live live b).trans (congrArg _ (pushed_payload hst b)), fun hcap => ⟨?_, ?_⟩, fun a ha => ?_⟩
  · rw [read_write, if_pos ⟨rfl, hcap⟩]
  · rw [written_write, decide_eq_true ⟨rfl, hcap⟩, Bool.true_or]
  · rw [read_write, if_neg fun ⟨heq, _⟩ => ha heq]

/-- Settles O24, by the checksum arm of a push. -/
theorem pushInAwaitChecksum : Obligations.PushInAwaitChecksum :=
  fun b _ live hst => (exec_fdPush_live live b).trans (congrArg _ (pushed_checksum hst b))

/-- Settles O28: the range check, then the cell. -/
theorem fdRdbReturnsTheCell : Obligations.FdRdbReturnsTheCell := by
  refine ⟨dataIsOperand_of_encode fun _ => rfl, fun o s live =>
    ⟨fun hout => ?_, fun hin hnone => ?_, fun v hin hv => ?_⟩⟩
  · rw [exec_live live, body, offset_eq, inRange_out hout]
    rfl
  · rw [exec_live live, body, offset_eq, inRange_in hin, withCell_unwritten hnone]
    rfl
  · exact (exec_fdRdb_answer live o (byteRes v)).2 ⟨hin, v, hv, rfl⟩

/-- Settles O29: the range check, then cell `o`, then cell `o + 1`. -/
theorem fdRd16ReturnsTheBigEndianField : Obligations.FdRd16ReturnsTheBigEndianField := by
  refine ⟨dataIsOperand_of_encode fun _ => rfl, fun o s live =>
    ⟨fun hout => ?_, fun hin hnone => ?_, fun hi hin hhi hnone => ?_, fun hi lo hin hhi hlo => ?_⟩⟩
  · rw [exec_live live, body, offset_eq, nextOffset_eq, inRange_out hout]
    rfl
  · rw [exec_live live, body, offset_eq, nextOffset_eq, inRange_in hin, withCell_unwritten hnone]
    rfl
  · rw [exec_live live, body, offset_eq, nextOffset_eq, inRange_in hin, withCell_written hhi, withCell_unwritten hnone]
    rfl
  · exact ⟨fieldRes hi lo, (exec_fdRd16_answer live o _).2 ⟨hin, hi, hhi, lo, hlo, rfl⟩, toNat_fieldRes hi lo⟩

/-- Settles O31: the fields of `RES` are the pieces it is put together from. -/
theorem fdStatReturnsTheDecoderRegisters : Obligations.FdStatReturnsTheDecoderRegisters := by
  refine ⟨dataMustBeZero_of_encode rfl (by decide), fun s live => ?_⟩
  obtain ⟨hidx, hlen, hck, hzero, hst⟩ := statRes_fields s
  refine ⟨statRes s, exec_live live .fdStat, hidx, hlen, hck, hzero, hst.trans ?_⟩
  cases s.st <;> rfl

/-- Settles O55: the reader extracts only on a result with both `DONE` and `OK`. -/
theorem onlyValidFramesArePublished : Obligations.OnlyValidFramesArePublished := by
  intro r b v hshown hbad
  have hquiet : (resDone v && resOk v) = false := Bool.and_eq_false_iff.2 hbad
  simp only [Reader.feed, hshown, hquiet, Bool.false_eq_true, if_false]

end Sys2Proof.Proofs
end

section
/-!
PROOFS. The statements about 42_control.md: `NOP` (R134) and `RST` (R135), after the fact that no operation sees the result of
the one before it (R39).
-/

namespace Sys2Proof.Proofs

open Sys2Proof.Machine Sys2Proof.Laws

/-- An operation writes the result it answers with and reads none: what the operation before it returned does not matter. -/
theorem exec_answer_live {s : State} (live : s.fault = none) (i : Instr) (v : Res) : exec i (s.answer v) = exec i s := by
  obtain ⟨t, h, -⟩ := exec_completes live i
  rw [h]
  cases hi : opUnit i with
  | crcUnit =>
    rw [exec_crcUnit_frame hi h]
    exact exec_of_sameCrcUnit (s := s) (t := t) hi ⟨rfl, rfl⟩ rfl h
  | frameDecoder =>
    rw [exec_frameDecoder_frame hi h]
    exact exec_of_sameFrameDecoder (s := s) (t := t) hi ⟨rfl, rfl, rfl, rfl, rfl, rfl⟩ rfl h
  | whole =>
    obtain ⟨-, hbody⟩ := exec_next.1 h
    refine exec_next.2 ⟨live, ?_⟩
    cases i with
    | nop => exact hbody
    | rst => exact hbody
    | _ => cases hi

theorem unitsReset_resetUnits_answer (s : State) (v : Res) : (s.resetUnits.answer v).UnitsReset :=
  ⟨rfl, rfl, rfl, rfl, rfl, written_empty⟩

/-! ## The statements -/

/-- Settles O7: `NOP` writes the result alone, and the next operation does not see it. -/
theorem nopChangesNothing : Obligations.NopChangesNothing :=
  ⟨dataMustBeZero_of_encode rfl (by decide), fun _ live =>
    ⟨exec_live live .nop, fun i => exec_answer_live live i 0x00000000#32⟩⟩

/-- Settles O8: the state reached is the block with both units reset and an empty result; a recorded fault stops `RST` as it
stops every operation. -/
theorem rstResetsBothUnits : Obligations.RstResetsBothUnits :=
  ⟨dataMustBeZero_of_encode rfl (by decide), fun s live =>
    ⟨s.resetUnits.answer emptyRes, exec_live live .rst, unitsReset_resetUnits_answer s emptyRes, rfl, live, rfl, rfl⟩,
    fun _ _ hfault => exec_stopped hfault .rst⟩

end Sys2Proof.Proofs
end

section
/-!
PROOFS. The statement about 60_exceptions.md: the fault table (R139) in the order of the checks (R145). Each operation has its
own row of the table (`operationFault`); the table gives an operation's word that row, and the operation's checks record it.
-/

namespace Sys2Proof.Proofs

open Sys2Proof.Machine Sys2Proof.Laws

/-! ## The fault table by operation (R139) -/

/-- The fault of an operation that reads `CRC` and has the word `w` (R27). -/
def crcFault (s : State) (w : OpWord) : Option FaultRecord :=
  if !s.crcv then some (.crcUnseeded w) else none

/-- The fault of a buffer read with the word `w` and the offset `o` whose highest cell is `top`, where `f` is the fault of
what follows the range check. -/
def rangeFault (s : State) (w : OpWord) (o top : Nat) (f : Option FaultRecord) : Option FaultRecord :=
  if s.config.cap ≤ top then some (.bufRange w o) else f

/-- The fault of reading cell `a` for the operation with the word `w`, where `f` is the fault of what follows the read
(R34). -/
def cellFault (s : State) (w : OpWord) (a : Nat) (f : Option FaultRecord) : Option FaultRecord :=
  if !Memory.written s.buf a then some (.bufUnwritten w a) else f

/-- The rows of the fault table that stand for an operation, in the order of R145; `wordFault_encode` ties it to the table
over words. -/
def operationFault (s : State) (i : Instr) : Option FaultRecord :=
  match i with
  | .crcUpd _ | .crcChk _ | .crcRd | .crcRdm => crcFault s (encode i)
  | .fdRdb o => rangeFault s (encode i) o.toNat o.toNat (cellFault s (encode i) o.toNat none)
  | .fdRd16 o =>
    rangeFault s (encode i) o.toNat (o.toNat + 1)
      (cellFault s (encode i) o.toNat (cellFault s (encode i) (o.toNat + 1) none))
  | .nop | .crcSeed _ | .fdPush _ | .fdStat | .rst => none

/-- The word of every operation is legal (R82). -/
theorem wellFormed_encode (i : Instr) : OpWord.wellFormed (encode i) = true :=
  (Bool.eq_false_or_eq_true _).resolve_right fun h => by
    obtain ⟨why, hdec⟩ := decode_of_not_wellFormed h
    cases (decode_encode i).symm.trans hdec

theorem wordFault_of_not_wellFormed {w : OpWord} (h : OpWord.wellFormed w = false) (s : State) :
    s.wordFault w = some (.reservedEncoding w) := by
  simp only [State.wordFault, h, Bool.not_false, if_true]

/-- The table gives the word of an operation the operation's own row: the word is legal, so no row but those of its opcode
can apply. -/
theorem wordFault_encode (s : State) (i : Instr) : s.wordFault (encode i) = operationFault s i := by
  have hop (op : BitVec 4) (d : Byte) : (opWord op d).extractLsb' 8 4 = op := opField_opWord op d
  have hdata (op : BitVec 4) (d : Byte) : (opWord op d).extractLsb' 0 8 = d := dataField_opWord op d
  simp only [State.wordFault, wellFormed_encode]
  cases i <;> simp [encode, hop, hdata, operationFault, crcFault, rangeFault, cellFault]

/-! ## The fault an operation records (R141, R145) -/

/-- The answer is a next state whose fault record is `f`. -/
def Records (a : Answer) (f : Option FaultRecord) : Prop :=
  ∃ t, a = .next t ∧ t.fault = f

theorem records_reply {s : State} (live : s.fault = none) (v : Res) : Records (reply v s) none :=
  ⟨s.answer v, rfl, live⟩

theorem records_record (s : State) (r : FaultRecord) : Records (.next (s.record r)) (some r) :=
  ⟨s.record r, rfl, rfl⟩

theorem records_withCrc {s : State} {w : OpWord} {k : Byte → Answer} (h : ∀ c, Records (k c) none) :
    Records (withCrc w s k) (crcFault s w) := by
  unfold crcFault
  obtain ⟨hseed, e⟩ | ⟨hseed, e⟩ := withCrc_cases w s k <;> rw [e, hseed]
  · exact h s.crc
  · exact records_record s _

theorem records_inRange {s : State} {w : OpWord} {o top : Nat} {k : Answer} {f : Option FaultRecord} (h : Records k f) :
    Records (inRange w o top s k) (rangeFault s w o top f) := by
  unfold rangeFault
  obtain ⟨hin, e⟩ | ⟨hout, e⟩ := inRange_cases w o top s k <;> rw [e]
  · rwa [if_neg (Nat.not_le.2 hin)]
  · rw [if_pos hout]
    exact records_record s _

theorem records_withCell {s : State} {w : OpWord} {a : Nat} {k : Byte → Answer} {f : Option FaultRecord}
    (h : ∀ b, Records (k b) f) : Records (withCell w a s k) (cellFault s w a f) := by
  unfold cellFault Memory.written
  obtain ⟨b, hread, e⟩ | ⟨hread, e⟩ := withCell_cases w a s k <;> rw [e, hread]
  · exact h b
  · exact records_record s _

/-- An operation makes the checks of its row in the table's order: the range, then the cells in rising order (R145). -/
theorem exec_records {s : State} (live : s.fault = none) (i : Instr) : Records (exec i s) (operationFault s i) := by
  rw [exec_live live]
  cases i with
  | nop => exact records_reply live _
  | crcSeed b => exact records_reply (s := s.seedCrc _) live _
  | crcUpd b => exact records_withCrc fun c => records_reply (s := s.writeCrc (crcStep c b)) live _
  | crcChk r => exact records_withCrc fun _ => records_reply live _
  | crcRd => exact records_withCrc fun _ => records_reply live _
  | crcRdm => exact records_withCrc fun _ => records_reply live _
  | fdPush b => exact records_reply ((pushArm_fault b s).trans live) _
  | fdRdb o =>
    rw [body, offset_eq]
    exact records_inRange (records_withCell fun _ => records_reply live _)
  | fdRd16 o =>
    rw [body, offset_eq, nextOffset_eq]
    exact records_inRange (records_withCell fun _ => records_withCell fun _ => records_reply live _)
  | fdStat => exact records_reply live _
  | rst => exact records_reply (s := s.resetUnits) live _

/-- An operation leaves the words that wait on the port as they are (R38). -/
theorem exec_port {i : Instr} {s t : State} (h : exec i s = .next t) : t.port = s.port := by
  have hsame : exec i s = .next { t with port := s.port } := exec_withPort h s.port
  rw [Host.Outcome.next.inj (h.symm.trans hsame)]

/-! ## The statement -/

/-- Settles O32: a reserved word has the first row of the table; any other is an operation's, whose checks are its row. -/
theorem faultsAreExactlyTheFaultTable : Obligations.FaultsAreExactlyTheFaultTable := by
  intro s w rest live hport
  cases hw : OpWord.wellFormed w with
  | false =>
    obtain ⟨why, hdec⟩ := decode_of_not_wellFormed hw
    refine ⟨{ s with port := rest }.record (.reservedEncoding w), ?_, (wordFault_of_not_wellFormed hw s).symm, rfl,
      fun _ => rfl, fun h => absurd h (Option.some_ne_none _)⟩
    rw [step_of_reserved hport hdec]
    exact accept_live (s := { s with port := rest }) live _
  | true =>
    obtain ⟨i, rfl⟩ := exists_encode_of_wellFormed hw
    rw [step_of_encode hport, wordFault_encode]
    obtain ⟨t, hexec, hfault⟩ := exec_records (s := { s with port := rest }) live i
    obtain ⟨t', hexec', hanswer⟩ := exec_completes (s := { s with port := rest }) live i
    obtain rfl := Host.Outcome.next.inj (hexec.symm.trans hexec')
    refine ⟨t, hexec, hfault, exec_port hexec, ?_⟩
    obtain ⟨hnone, hres⟩ | ⟨r, rfl⟩ := hanswer
    · exact ⟨fun h => absurd hnone h, fun _ => hres⟩
    · exact ⟨fun _ => rfl, fun h => absurd h (Option.some_ne_none r)⟩

end Sys2Proof.Proofs
end

section
/-!
PROOFS. The statements about 70_reset_and_hazards.md: the power-on state (R158, R159, R175) and the step on which no word is
offered (R174).
-/

namespace Sys2Proof.Proofs

open Sys2Proof.Machine Sys2Proof.Laws

/-! ## The power-on state (R158, R159) -/

theorem unitsReset_powerOn (c : Config) : (State.powerOn c).UnitsReset :=
  ⟨rfl, rfl, rfl, rfl, rfl, written_empty⟩

/-- Of R32 only the legality of the capacity is not the reset values' own. -/
theorem inv_powerOn {c : Config} (h : c.wellFormed = true) : (State.powerOn c).Inv :=
  ⟨h, rfl, rfl, Nat.le_refl _, Nat.zero_le _, nofun, nofun⟩

/-- `FD.STAT` shows the reset values of the frame decoder as zero, the code of `AWAIT_HEADER` included (R28, R159). -/
theorem statRes_of_unitsReset {s : State} (h : s.UnitsReset) : statRes s = 0x00000000#32 := by
  obtain ⟨-, hst, hck, hlen, hidx, -⟩ := h
  rw [statRes, hst, hck, hlen, hidx]
  decide

/-! ## A step with no word offered (R174) -/

theorem idle_live {s : State} (live : s.fault = none) : idle s = .next { s with res := none } :=
  accept_live live _

/-! ## The statements -/

/-- Settles O1: at power-on by the values the block is built with, after `RST` by what `RST` does (O8). -/
theorem bothResetsLeaveTheSameValues : Obligations.BothResetsLeaveTheSameValues := by
  obtain ⟨-, hrst, hstopped⟩ := rstResetsBothUnits
  refine ⟨fun c => ⟨unitsReset_powerOn c, rfl, rfl⟩, fun s live => ?_, hstopped⟩
  obtain ⟨t, hexec, hreset, -, hfault, hconfig, -⟩ := hrst s live
  exact ⟨t, hexec, hreset, hfault, hconfig⟩

/-- Settles O5: with an empty port the step is the idle one, which a block without a recorded fault takes. -/
theorem idleStepHoldsTheState : Obligations.IdleStepHoldsTheState :=
  fun _ live hport => (step_of_empty_port hport).trans (idle_live live)

/-- Settles O43: the decoder seeks a header, where `CK` means nothing, and `FD.STAT` shows the reset values. -/
theorem powerOnSatisfiesTheInvariants : Obligations.PowerOnSatisfiesTheInvariants := by
  intro c hc
  refine ⟨inv_powerOn hc, sumInv_of_awaitHeader rfl, ?_⟩
  rw [exec_live rfl, body, statRes_of_unitsReset (unitsReset_powerOn c)]
  rfl

end Sys2Proof.Proofs
end
